-- ==== Sys2Proof/Word.lean ====
section
/-! DEFINITION. The words of the SL-48: the byte and the 16-bit value in which the manual gives
every field (Conventions, "A byte is 8 bits"; R174, "A field of two bytes carries a 16-bit value"). -/

namespace Sys2Proof

/-- A byte, as it crosses a client port or the trunk. -/
abbrev Byte := BitVec 8

/-- A 16-bit value: a cell, an event set, a mask, a digest, a cycle check. -/
abbrev Word := BitVec 16

end Sys2Proof
end

