-- ==== Sys2Proof/Syntax.lean ====
section
/-! DEFINITION. The steps of the SL-48: one constructor of `Instr` for each row of
spec/opcode_table.json, with the row's operands. -/

namespace Sys2Proof

/-- A client port (R155: three ports, built alike). -/
inductive Port where
  | p1 | p2 | p3
  deriving DecidableEq, Repr

/-- C0 to C7 (R114). -/
abbrev ChannelNo := Fin 8
/-- A0 to A9 (R102). -/
abbrev AreaNo := Fin 10
/-- Cell 0 to cell 15 (R142). -/
abbrev CellNo := Fin 16
/-- Slots 0 to 23 of one direction (R67). -/
abbrev SlotNo := Fin 24
/-- Frames 0 to 11 of a cycle (R1). -/
abbrev FrameNo := Fin 12

/-- The 96 payload bytes of a frame, slot 0 byte 0 first (R1). -/
abbrev Payload := Vector Byte 96

/-- The order in which the channel table takes the channels in one step. The manual leaves it open
(R132, R138: "whichever is taken first"; R140 and R141 name no order), so the step carries it.
`Machine.channelOrder` reads any list as an order of all eight channels. DESIGN CHOICE, log entry 3. -/
abbrev ChannelOrder := List ChannelNo

/-- A byte written to a data window, and where SELn moves around it (R155). `begins`: SELn has just been
driven low and the access header taken, so the byte is the transaction's first data byte; `ends`: SELn is
driven high after it. -/
structure WrittenByte where
  byte : Byte
  begins : Bool
  ends : Bool
  deriving DecidableEq, Repr

/-- A byte read from a channel's data window, and where SELn moves around it, as for a `WrittenByte`. -/
structure ReadByte where
  channel : ChannelNo
  begins : Bool
  ends : Bool
  deriving DecidableEq, Repr

/-- The pins sampled as RESET_N rises: the level of ROLE (R22) and the ports whose SELn is low (R170). -/
structure ResetPins where
  roleHigh : Bool
  selected : List Port
  deriving DecidableEq, Repr

/-- The part's steps, one for each row of the table.

A command row (`linkUp` to `unknownCommand`) is the moment at which the command engine takes that
command from the port's slot (R159, R160); its parameters are read from the port's parameter block
at that moment (R158), so the port is its one operand. The other rows carry what comes from
outside: the bytes of a port transaction after its header, a received frame, a report of the line,
a timer that has run out. -/
inductive Instr where
  -- commands of the link and the framer
  | linkUp (p : Port)
  | linkDown (p : Port)
  | linkStatus (p : Port)
  | counters (p : Port)
  -- commands of the service channel
  | sendService (p : Port)
  | sendServiceAnswer (p : Port)
  | takeReport (p : Port)
  | maintLoopAll (p : Port)
  | maintLoopSlot (p : Port)
  | maintLoopClear (p : Port)
  | maintBadChecksOn (p : Port)
  | maintBadChecksOff (p : Port)
  | maintBlindOn (p : Port)
  | maintBlindOff (p : Port)
  | maintClearAll (p : Port)
  -- commands of the slot plan and the plan exchange
  | slotAssign (p : Port)
  | slotFree (p : Port)
  | planRead (p : Port)
  | planSwitch (p : Port)
  | planWithdraw (p : Port)
  | planStatus (p : Port)
  -- commands of the areas
  | shapeArea (p : Port)
  | dropArea (p : Port)
  | clearArea (p : Port)
  | areaStatus (p : Port)
  -- commands of the channels
  | openChannel (p : Port)
  | closeChannel (p : Port)
  | postOrder (p : Port)
  | abortCurrent (p : Port)
  | abortAll (p : Port)
  | resume (p : Port)
  | channelStatus (p : Port)
  | takeCompletion (p : Port)
  -- commands of the cells
  | cellRead (p : Port)
  | cellSet (p : Port)
  | cellExchange (p : Port)
  | cellAdd (p : Port)
  | cellTake (p : Port)
  | cellTestClear (p : Port)
  | cellSetBit (p : Port)
  | cellWatch (p : Port)
  | cellsChanged (p : Port)
  -- the part-wide settings, the port reset, a code that names no command
  | settingsRead (p : Port)
  | settingsWrite (p : Port)
  | portReset (p : Port)
  | unknownCommand (p : Port)
  -- port transactions
  /-- A write transaction on COMMAND; `data` are its data bytes, the code first (R156). -/
  | commandWrite (p : Port) (data : List Byte)
  /-- A write transaction on PARAMETER with its offset byte and its data bytes (R156, R158). -/
  | parameterWrite (p : Port) (offset : Byte) (data : List Byte)
  /-- A write transaction on EVENTS with its data bytes (R162). -/
  | eventsWrite (p : Port) (data : List Byte)
  /-- A write transaction on MASK with its data bytes (R163). -/
  | maskWrite (p : Port) (data : List Byte)
  /-- A transaction whose access header meets no target, with the bytes that follow it (R156, R172). -/
  | noTargetAccess (p : Port) (header : Byte) (data : List Byte)
  /-- One byte of a write transaction on a channel's data window (R109). -/
  | dataWindowWrite (p : Port) (c : ChannelNo) (b : WrittenByte)
  /-- One byte of a read transaction on a channel's data window (R110). -/
  | dataWindowRead (p : Port) (c : ReadByte)
  /-- RESET_N driven low and released (R170). -/
  | powerOnReset (pins : ResetPins)
  -- frames
  /-- The next outbound frame begins (R3, R4). -/
  | outboundFrameStart (order : ChannelOrder)
  /-- The received frame due at its expected place, complete: the byte found at the marker's place,
  the payload and the service byte (R5). -/
  | receivedFrame (marker : Byte) (payload : Payload) (service : Byte) (order : ChannelOrder)
  /-- Bits of the received line up to the place where the hunt, or the Clock end's search, looks next, from
  the end of the byte it looked at last (R30, R31, R183). -/
  | huntMarker (bits : List Bool)
  -- tones
  | wakeHeard
  | wakeGone
  | answerHeard
  | answerGone
  -- timers and counts
  | quietGuardExpiry
  | tryTimerExpiry
  | wakeToneTimerExpiry (order : ChannelOrder)
  | answerToneTimerExpiry
  | alignTimerExpiry (order : ChannelOrder)
  | readyWaitExpiry (order : ChannelOrder)
  | resyncLimit (order : ChannelOrder)
  | leavingComplete (order : ChannelOrder)
  | planTimeout
  | badChecksStartExpiry
  | planSwap (order : ChannelOrder)
  | bankAdoption (order : ChannelOrder)
  deriving DecidableEq, Repr

end Sys2Proof
end

