-- ==== Sys2Proof/Decode.lean ====
section
/-! DEFINITION. The host's word decoder. No row of spec/opcode_table.json gives bits (its rows are
steps, not encoded words), so no word spells one. The codes that the manual does give, of commands,
windows and service messages, are read where they act, in Sys2Proof/Machine/. -/

namespace Sys2Proof

/-- The step a word of the table's bits spells: none, for no row has bits. -/
def decodeTableWord (_nbits _w : Nat) : Option Instr := none

end Sys2Proof
end

