-- ==== Sys2Proof/Machine/State.lean ====
section
/-! DEFINITION. The state of the SL-48, one structure for each block of the manual's outline, and the
state after power-on reset. -/

namespace Sys2Proof.Machine

open Sys2Proof

/-! ## Names -/

/-- The two trunk roles (R22). -/
inductive Role where
  | follow | clock
  deriving DecidableEq, Repr

/-- The link states (R23). -/
inductive LinkState where
  | down | waking | answering | aligning | synced | up | resync | leaving
  deriving DecidableEq, Repr

/-- The last failure reasons (R23). -/
inductive FailureReason where
  | none | wakeFailed | alignFailed | roleClash | readyTimeout | lost
  deriving DecidableEq, Repr

/-- The tone being sent while the tone timer runs (R23, R25). -/
inductive Tone where
  | wake | answer
  deriving DecidableEq, Repr

/-- A direction of a channel (R114). -/
inductive Direction where
  | out | inn
  deriving DecidableEq, Repr

/-- The two plan banks (R67). -/
inductive Bank where
  | b0 | b1
  deriving DecidableEq, Repr

/-- The channel states (R114). -/
inductive ChannelState where
  | closed | idle | waiting | active | halted
  deriving DecidableEq, Repr

/-- The halt reasons (R114). -/
inductive HaltReason where
  | overrun | linkLost | areaSmall
  deriving DecidableEq, Repr

/-- The outcomes of an order (R127). -/
inductive OrderOutcome where
  | done | short | overrun | aborted | linkLost | areaSmall
  deriving DecidableEq, Repr

/-- The area states (R102). -/
inductive AreaState where
  | undefined | free | bound
  deriving DecidableEq, Repr

/-- The exchange states (R81). -/
inductive ExchangeState where
  | idle | offered | scheduled
  deriving DecidableEq, Repr

/-- The side of a scheduled exchange (R81). -/
inductive Side where
  | offerer | agreer
  deriving DecidableEq, Repr

/-- Who started an exchange (R81). -/
inductive Requester where
  | port (p : Port) | peer
  deriving DecidableEq, Repr

/-- The outcomes of an exchange (R81). -/
inductive PlanOutcomeKind where
  | switched | peerSwitched | refused | collided | late | timeout | withdrawn | mismatch | linkLost
  | adopted
  deriving DecidableEq, Repr

/-- The refusal reasons (R81). -/
inductive RefusalReason where
  | busy | pattern
  deriving DecidableEq, Repr

/-- The kinds of a service message (R44). -/
inductive MessageKind where
  | order | value
  deriving DecidableEq, Repr

/-- Who wrote the answer place (R45). -/
inductive AnswerSource where
  | plan | badChecksEcho | other
  deriving DecidableEq, Repr

/-- The service modes (R45). -/
inductive ServiceMode where
  | auto | relay
  deriving DecidableEq, Repr

/-- The report filters (R45). -/
inductive ReportFilter where
  | every | change | confirmed
  deriving DecidableEq, Repr

/-- The dispositions of a report record (R59). -/
inductive Disposition where
  | seen | plan | echo | held | executed | declined | foreign | noted
  deriving DecidableEq, Repr

/-- The two service message positions of a cycle (R7). -/
inductive Position where
  | a | b
  deriving DecidableEq, Repr

/-- The states of a command slot (R157). -/
inductive CommandState where
  | idle | pending | done | failed
  deriving DecidableEq, Repr

/-- The result codes (R173). -/
inductive ResultCode where
  | done | unknown | badParam | notOwner | owned | inUse | state | queueFull | noRoom
  | areaUndefined | areaBound | areaSmall | heldElsewhere | overlap | range | planBusy | linkBusy
  | linkDown | svcFull | notServicePort | empty
  deriving DecidableEq, Repr

/-- The fourteen events (R161). -/
inductive Event where
  | cmdDone | completion | halted | unclaimed | badUnit | dataSpill | access | cmdOverrun | link
  | wakeSeen | plan | service | cell | looped
  deriving DecidableEq, Repr

/-! ## Records -/

/-- One value for each of P1, P2 and P3. -/
structure PerPort (α : Type) where
  p1 : α
  p2 : α
  p3 : α
  deriving DecidableEq, Repr

/-- A service message: its four fields (R44). -/
structure Message where
  target : BitVec 4
  kind : MessageKind
  code : Byte
  argument : Word
  deriving DecidableEq, Repr

/-- NONE to PEER, argument 0: the idle message (R45, R178). -/
def Message.idle : Message := ⟨0#4, .order, 0#8, 0#16⟩

/-- A completion record (R127). -/
structure CompletionRecord where
  channel : ChannelNo
  tag : Byte
  outcome : OrderOutcome
  moved : Nat
  cycle : Byte
  deriving DecidableEq, Repr

/-- Where a port's select line and transaction stand (R155, R170). -/
inductive Transaction where
  /-- SELn is high: no transaction, and SDOn is high-impedance. -/
  | off
  /-- SELn is low, the access header is taken and data bytes follow. -/
  | taken (header : Byte)
  /-- SELn has been low since before RESET_N rose: the transaction is disregarded to its end (R170). -/
  | disregarded
  deriving DecidableEq, Repr

/-- What a port holds for itself (R155 to R164, R170). -/
structure PortState where
  command : CommandState
  code : Byte
  resultCode : ResultCode
  parameters : Vector Byte 24
  result : Vector Byte 24
  /-- The event set, as the EVENTS window shows it (R172). -/
  events : Word
  /-- The event mask, as the MASK window shows it (R172). -/
  mask : Word
  completions : List CompletionRecord
  orderCount : Nat
  /-- The watch flags, bit b for cell b (R142, R153). -/
  watch : Word
  /-- The changed set, bit b for cell b (R142, R154). -/
  changed : Word
  transaction : Transaction
  /-- The byte that SDOn shifts out; absent while the line is high-impedance (R155, R170). -/
  sdo : Option Byte
  /-- The data bytes that SDOn has carried for the port's data-window transaction in progress or, with none
  in progress, for its last one: those of its read, oldest first (R110, R111; log entry 19). -/
  sent : List Byte
  deriving DecidableEq, Repr

/-- An order record (R116). -/
structure Order where
  tag : Byte
  count : Nat
  moved : Nat
  gate : Option CellNo
  completionCell : Option CellNo
  deriving DecidableEq, Repr

/-- A channel record (R114). -/
structure Channel where
  state : ChannelState
  owner : Option Port
  direction : Option Direction
  area : Option AreaNo
  /-- Oldest first; the head is the current order while WAITING or ACTIVE (R115). -/
  queue : List Order
  halt : Option HaltReason
  loopPause : Bool
  deriving DecidableEq, Repr

/-- The CLOSED values of a channel record (R114). -/
def Channel.closed : Channel := ⟨.closed, none, none, none, [], none, false⟩

/-- An area record (R102). -/
structure Area where
  state : AreaState
  holder : Option Port
  first : Option Nat
  count : Option Nat
  readPos : Nat
  writePos : Nat
  fill : Nat
  channel : Option ChannelNo
  deriving DecidableEq, Repr

/-- The UNDEFINED values of an area record (R102). -/
def Area.undefined : Area := ⟨.undefined, none, none, none, 0, 0, 0, none⟩

/-- A cell's value and its waiter list (R142). Its peer-writable flag is a setting and its watch
flags stand with the ports, each in its one home. -/
structure Cell where
  value : Word
  waiters : List ChannelNo
  deriving DecidableEq, Repr

/-- The part-wide settings (R165). -/
structure Settings where
  mode : ServiceMode
  filter : ReportFilter
  servicePort : Port
  autoAnswer : Bool
  /-- The peer-writable flags, bit b for cell b (R142). -/
  peerWritable : Word
  deriving DecidableEq, Repr

/-- One slot table: an entry for each slot, unassigned or a channel (R67). -/
abbrev SlotTable := Vector (Option ChannelNo) 24

/-- The two tables of one bank (R67). -/
structure BankTables where
  out : SlotTable
  inn : SlotTable
  deriving DecidableEq, Repr

/-- The slot plan (R67, R69, R79). -/
structure SlotPlan where
  bank0 : BankTables
  bank1 : BankTables
  active : Bank
  /-- The receive bank (R69). -/
  receive : Bank
  /-- The inbound table received frames are read against as it stood before a swap rebuilt its bank (R78), from
  that swap to the next received frame-0 place (R69, R93, R140); absent otherwise. The model's own; log entry 30. -/
  retained : Option SlotTable
  /-- The pending-clear set: a flag for each channel in it (R79). -/
  pendingClear : Vector Bool 8
  deriving DecidableEq, Repr

/-- A last plan outcome record (R81). -/
structure PlanOutcome where
  kind : PlanOutcomeKind
  reason : Option RefusalReason
  requester : Option Requester
  cycle : Byte
  deriving DecidableEq, Repr

/-- The plan exchange (R81). -/
structure Exchange where
  state : ExchangeState
  requester : Option Requester
  side : Option Side
  offered : Option Word
  peerOffer : Option Word
  answer : Option Word
  target : Option Byte
  /-- OFFERED count; 48 only between a cycle start's count and its timeout (R85). -/
  count : Nat
  mismatchRun : Nat
  mismatch : Bool
  /-- Adoption pending, with the bank to adopt; absent when no adoption is pending (R81, R96). -/
  adopt : Option Bank
  last : Option PlanOutcome
  deriving DecidableEq, Repr

/-- The answer place's message and its source (R45). -/
structure Answer where
  message : Message
  source : AnswerSource
  deriving DecidableEq, Repr

/-- An entry of the origin queue: from a port or from the plan exchange (R45). -/
structure OriginEntry where
  message : Message
  fromPlan : Bool
  deriving DecidableEq, Repr

/-- The look run's candidate and its length, 1 to 3 (R45). -/
structure LookRun where
  candidate : Message
  length : Nat
  deriving DecidableEq, Repr

/-- A report record, less the overflow mark, which it takes from the queue when taken (R59). -/
structure Report where
  message : Message
  cycle : Byte
  position : Position
  disposition : Disposition
  deriving DecidableEq, Repr

/-- The service channel (R45), less the settings. -/
structure Service where
  slot : Message
  hold : Nat
  answer : Option Answer
  origin : List OriginEntry
  await : List Message
  look : Option LookRun
  lastConfirmed : Option Message
  previous : Option Message
  reports : List Report
  overflow : Bool
  /-- The loop set: a flag for each outbound slot in it (R60). -/
  loopSet : Vector Bool 24
  /-- The bad-checks start; 4 only between a cycle start's count and its expiry (R61). -/
  badStart : Option Nat
  deriving DecidableEq, Repr

/-- The link controller (R23), with the tone detector's report that WAKE is being heard (R25). -/
structure Link where
  state : LinkState
  claims : PerPort Bool
  tryCount : Nat
  quietGuard : Bool
  tryTimer : Bool
  toneTimer : Option Tone
  alignTimer : Bool
  readyWait : Option Nat
  resyncCount : Option Nat
  leavingCount : Option Nat
  peerDemand : Bool
  peerReady : Bool
  lastFailure : FailureReason
  wakeHeard : Bool
  deriving DecidableEq, Repr

/-- What the transmit pair carries (R1, R25, R40). -/
inductive Line where
  | quiet
  | wakeTone
  | answerTone
  /-- The frame begun last: its marker, its payload and its service byte (R1). -/
  | frame (marker : Byte) (payload : Payload) (service : Byte)
  deriving DecidableEq, Repr

/-- What a received cycle holds until it is decided on (R7, R12): its service bytes by frame, and the
receive bank in effect at its frame-0 place, which is its reference bank (R95). -/
structure ReceivedCycle where
  service : Vector Byte 12
  reference : Bank
  deriving DecidableEq, Repr

/-- The received check pending, with the cycle it was computed over (R11) and the number this end
gave the outbound cycle that cycle's frame 0 started (R19). -/
structure PendingCheck where
  check : Word
  cycle : ReceivedCycle
  localCycle : Byte
  deriving DecidableEq, Repr

/-- The framer (R1 to R21). -/
structure Framer where
  role : Role
  /-- The outbound frame number (R1). -/
  outFrame : FrameNo
  /-- The local cycle number (R4). -/
  cycle : Byte
  /-- Model: a cycle start has been entered by one of its steps and its frame 0 has not begun yet. -/
  cycleOpen : Bool
  line : Line
  /-- The message of the outbound position in progress (R7). -/
  positionMessage : Message
  /-- The status field as composed at frame 4 (R8). -/
  statusFlags : Byte
  statusCycle : Byte
  /-- The check field as read at frame 10 (R10). -/
  checkField : Word
  /-- The check being computed over the outbound cycle; absent until the first frame 0 sent (R10, R20). -/
  outCheck : Option Word
  /-- The check of the previous outbound cycle, 0xFFFF when there is none (R10). -/
  lastCheck : Word
  /-- The inbound side is framed (R2). -/
  framed : Bool
  /-- The frame number due at the next expected place (R5). -/
  dueFrame : FrameNo
  badRun : Nat
  /-- How many markers just before the next place were good, up to 2 (R6). -/
  goodRun : Nat
  /-- The received cycle in progress is the first after the hunt (R18). -/
  firstCycle : Bool
  /-- The frame markers of the hunt's run, 0 to 11 (R31). -/
  hunt : Nat
  /-- The check being computed over the received cycle (R11). -/
  inCheck : Word
  receiving : ReceivedCycle
  pendingCheck : Option PendingCheck
  disagreeRun : Nat
  /-- The received status flags last accepted (R12). -/
  peerFlags : Byte
  farErrorToSend : Bool
  badChecks : Bool
  checkBlind : Bool
  nearEnd : Byte
  farEnd : Byte
  /-- The most recent inbound frame handed over since the link last left DOWN (R3). -/
  lastHanded : Option Payload
  deriving DecidableEq, Repr

/-- The state of the part. -/
structure State where
  framer : Framer
  link : Link
  service : Service
  settings : Settings
  plan : SlotPlan
  exchange : Exchange
  /-- The buffer pool: byte addresses 0 to 16,383 (R101), in the canonical form of `Memory.wf`. -/
  pool : List Host.Cell
  areas : Vector Area 10
  channels : Vector Channel 8
  cells : Vector Cell 16
  ports : PerPort PortState
  /-- The last port served (R159). -/
  lastServed : Port
  /-- Model: how many free bytes have been drawn from `Config.freeByte` (log entry 2). -/
  freeNext : Nat
  /-- The steps waiting, first in, first out. -/
  pending : List Instr
  deriving DecidableEq, Repr

/-- The reasons for which the part would stop with a fault: none. Every step of the manual's table
has an effect or, where its occasion is not there, changes nothing, so no meaning raises a fault. -/
inductive Fault where
  deriving DecidableEq, Repr

/-- The reasons for which a step has no meaning. -/
inductive Refusal where
  /-- Raised by `exec` alone, for a row that has no meaning yet. Safe: the model stops. No arm raises it now. -/
  | notModelled (mnemonic : String)
  deriving DecidableEq, Repr

/-! ## Reset -/

/-- The framer after power-on reset (R21); the role is sampled then (R22). -/
def Framer.afterReset (role : Role) : Framer where
  role := role
  outFrame := 0
  cycle := 0#8
  cycleOpen := false
  line := .quiet
  positionMessage := Message.idle
  statusFlags := 0#8
  statusCycle := 0#8
  checkField := 0xFFFF#16
  outCheck := none
  lastCheck := 0xFFFF#16
  framed := false
  dueFrame := 0
  badRun := 0
  goodRun := 0
  firstCycle := false
  hunt := 0
  inCheck := 0xFFFF#16
  receiving := ⟨Vector.replicate 12 0#8, .b0⟩
  pendingCheck := none
  disagreeRun := 0
  peerFlags := 0#8
  farErrorToSend := false
  badChecks := false
  checkBlind := false
  nearEnd := 0#8
  farEnd := 0#8
  lastHanded := none

/-- The link controller after power-on reset (R23). -/
def Link.afterReset : Link where
  state := .down
  claims := ⟨false, false, false⟩
  tryCount := 0
  quietGuard := false
  tryTimer := false
  toneTimer := none
  alignTimer := false
  readyWait := none
  resyncCount := none
  leavingCount := none
  peerDemand := false
  peerReady := false
  lastFailure := .none
  wakeHeard := false

/-- The service channel after power-on reset (R45). -/
def Service.afterReset : Service where
  slot := Message.idle
  hold := 0
  answer := none
  origin := []
  await := []
  look := none
  lastConfirmed := none
  previous := none
  reports := []
  overflow := false
  loopSet := Vector.replicate 24 false
  badStart := none

/-- The settings after power-on reset (R165). -/
def Settings.afterReset : Settings := ⟨.auto, .confirmed, .p1, true, 0#16⟩

/-- The slot plan after power-on reset: every entry unassigned, bank 0 active (R67, R69, R79). -/
def SlotPlan.afterReset : SlotPlan where
  bank0 := ⟨Vector.replicate 24 none, Vector.replicate 24 none⟩
  bank1 := ⟨Vector.replicate 24 none, Vector.replicate 24 none⟩
  active := .b0
  receive := .b0
  retained := none
  pendingClear := Vector.replicate 8 false

/-- The plan exchange after power-on reset (R81). -/
def Exchange.afterReset : Exchange where
  state := .idle
  requester := none
  side := none
  offered := none
  peerOffer := none
  answer := none
  target := none
  count := 0
  mismatchRun := 0
  mismatch := false
  adopt := none
  last := none

/-- A port after power-on reset (R170). -/
def PortState.afterReset : PortState where
  command := .idle
  code := 0#8
  resultCode := .done
  parameters := Vector.replicate 24 0#8
  result := Vector.replicate 24 0#8
  events := 0#16
  mask := 0#16
  completions := []
  orderCount := 0
  watch := 0#16
  changed := 0#16
  transaction := .off
  sdo := none
  sent := []

/-- The part right after power-on reset with the given role. -/
def State.afterReset (role : Role) : State where
  framer := Framer.afterReset role
  link := Link.afterReset
  service := Service.afterReset
  settings := Settings.afterReset
  plan := SlotPlan.afterReset
  exchange := Exchange.afterReset
  pool := []
  areas := Vector.replicate 10 Area.undefined
  channels := Vector.replicate 8 Channel.closed
  cells := Vector.replicate 16 ⟨0#16, []⟩
  ports := ⟨PortState.afterReset, PortState.afterReset, PortState.afterReset⟩
  lastServed := .p3
  freeNext := 0
  pending := []

/-- The machine right after reset. The ROLE pin decides the role (R22), and the SELn pins whether a
transaction is to be disregarded (R170); here all four are taken as high, and the step POWER_ON_RESET gives
every level. DESIGN CHOICE, log entry 1. -/
def State.reset : State := State.afterReset .clock

end Sys2Proof.Machine
end

