-- ==== Sys2Proof/Machine/Operands.lean ====
section
/-! DEFINITION. The fields of parameter blocks, result blocks and messages: their places and codes
(R173 to R178, R181). -/

namespace Sys2Proof.Machine

open Sys2Proof

/-! ## Numbers -/

/-- A number in one byte. -/
def byteOf (n : Nat) : Byte := BitVec.ofNat 8 n

/-- The low-order byte of a 16-bit value. -/
def lowByte (w : Word) : Byte := w.setWidth 8

/-- The high-order byte of a 16-bit value. -/
def highByte (w : Word) : Byte := (w >>> 8).setWidth 8

/-- A 16-bit value of its low-order and high-order byte (R174). -/
def wordOf (lo hi : Byte) : Word := hi ++ lo

/-- A field of two bytes, low-order byte first (R174). -/
def field16 (w : Word) : List Byte := [lowByte w, highByte w]

/-- A number in a field of two bytes. -/
def fieldNat (n : Nat) : List Byte := field16 (BitVec.ofNat 16 n)

/-- The absent mark of a numbered thing (R174). -/
def absentMark : Byte := 0xFF#8

/-- A flag byte of a result (R174). -/
def flagField (b : Bool) : Byte := if b then 1#8 else 0#8

/-- A flag byte of a parameter block: set when it is not 0 (R174). -/
def flagParam (b : Byte) : Bool := b != 0#8

/-- A 24-byte block of its first bytes, the rest 0x00 (R160). -/
def blockOf (bytes : List Byte) : Vector Byte 24 := Vector.ofFn fun i => bytes.getD i.val 0#8

/-- A byte of a parameter block by its offset. -/
def param (q : PortState) (offset : Fin 24) : Byte := q.parameters[offset.val]

/-- A field of two bytes of a parameter block by its first offset. -/
def param16 (q : PortState) (offset : Fin 23) : Word :=
  wordOf q.parameters[offset.val] q.parameters[offset.val + 1]

/-! ## Numbered things -/

/-- A number below `n` in a byte, if it is one. -/
def fin? (n : Nat) (b : Byte) : Option (Fin n) := if h : b.toNat < n then some ⟨b.toNat, h⟩ else none

def channel? (b : Byte) : Option ChannelNo := fin? 8 b
def area? (b : Byte) : Option AreaNo := fin? 10 b
def slot? (b : Byte) : Option SlotNo := fin? 24 b
def cell? (b : Byte) : Option CellNo := fin? 16 b

/-- A cell field that may be absent (R174): none when out of range, else the cell or its absence. -/
def optionalCell? (b : Byte) : Option (Option CellNo) :=
  if b = absentMark then some none else (cell? b).map some

/-- A numbered thing or its absent mark (R174). -/
def numberField {n : Nat} (x : Option (Fin n)) : Byte :=
  match x with
  | some i => byteOf i.val
  | none => absentMark

/-! ## Ports -/

/-- 1 for P1, 2 for P2 and 3 for P3 (R174). -/
def portNumber : Port → Byte
  | .p1 => 1#8
  | .p2 => 2#8
  | .p3 => 3#8

def port? (b : Byte) : Option Port :=
  if b = 1#8 then some .p1 else if b = 2#8 then some .p2 else if b = 3#8 then some .p3 else none

/-- A port field, 0 when absent (R174). -/
def portField (p : Option Port) : Byte :=
  match p with
  | some p => portNumber p
  | none => 0#8

/-- A requester field: PEER is 4, absent is 0 (R174). -/
def requesterField (r : Option Requester) : Byte :=
  match r with
  | some (.port p) => portNumber p
  | some .peer => 4#8
  | none => 0#8

/-! ## Enumerations (R173, R174) -/

def ResultCode.number : ResultCode → Nat
  | .done => 0
  | .unknown => 1
  | .badParam => 2
  | .notOwner => 3
  | .owned => 4
  | .inUse => 5
  | .state => 6
  | .queueFull => 7
  | .noRoom => 8
  | .areaUndefined => 9
  | .areaBound => 10
  | .areaSmall => 11
  | .heldElsewhere => 12
  | .overlap => 13
  | .range => 14
  | .planBusy => 15
  | .linkBusy => 16
  | .linkDown => 17
  | .svcFull => 18
  | .notServicePort => 19
  | .empty => 20

/-- The command state's code in STATUS byte 0 (R172). -/
def CommandState.number : CommandState → Nat
  | .idle => 0
  | .pending => 1
  | .done => 2
  | .failed => 3

def direction? (b : Byte) : Option Direction :=
  if b = 0#8 then some .out else if b = 1#8 then some .inn else none

/-- 0 OUT, 1 IN, 0xFF absent (R174, R175). -/
def directionField : Option Direction → Byte
  | some .out => 0#8
  | some .inn => 1#8
  | none => absentMark

def linkStateField : LinkState → Byte
  | .down => 0#8
  | .waking => 1#8
  | .answering => 2#8
  | .aligning => 3#8
  | .synced => 4#8
  | .up => 5#8
  | .resync => 6#8
  | .leaving => 7#8

def failureField : FailureReason → Byte
  | .none => 0#8
  | .wakeFailed => 1#8
  | .alignFailed => 2#8
  | .roleClash => 3#8
  | .readyTimeout => 4#8
  | .lost => 5#8

def roleField : Role → Byte
  | .follow => 0#8
  | .clock => 1#8

def channelStateField : ChannelState → Byte
  | .closed => 0#8
  | .idle => 1#8
  | .waiting => 2#8
  | .active => 3#8
  | .halted => 4#8

def haltField : Option HaltReason → Byte
  | none => 0#8
  | some .overrun => 1#8
  | some .linkLost => 2#8
  | some .areaSmall => 3#8

def outcomeField : OrderOutcome → Byte
  | .done => 1#8
  | .short => 2#8
  | .overrun => 3#8
  | .aborted => 4#8
  | .linkLost => 5#8
  | .areaSmall => 6#8

def areaStateField : AreaState → Byte
  | .undefined => 0#8
  | .free => 1#8
  | .bound => 2#8

def exchangeStateField : ExchangeState → Byte
  | .idle => 0#8
  | .offered => 1#8
  | .scheduled => 2#8

def sideField : Option Side → Byte
  | some .offerer => 0#8
  | some .agreer => 1#8
  | none => absentMark

def planOutcomeField : PlanOutcomeKind → Byte
  | .switched => 1#8
  | .peerSwitched => 2#8
  | .refused => 3#8
  | .collided => 4#8
  | .late => 5#8
  | .timeout => 6#8
  | .withdrawn => 7#8
  | .mismatch => 8#8
  | .linkLost => 9#8
  | .adopted => 10#8

def refusalField : Option RefusalReason → Byte
  | none => 0#8
  | some .busy => 1#8
  | some .pattern => 2#8

def bankField : Bank → Byte
  | .b0 => 0#8
  | .b1 => 1#8

def mode? (b : Byte) : Option ServiceMode :=
  if b = 0#8 then some .auto else if b = 1#8 then some .relay else none

def modeField : ServiceMode → Byte
  | .auto => 0#8
  | .relay => 1#8

def filter? (b : Byte) : Option ReportFilter :=
  if b = 0#8 then some .every else if b = 1#8 then some .change
  else if b = 2#8 then some .confirmed else none

def filterField : ReportFilter → Byte
  | .every => 0#8
  | .change => 1#8
  | .confirmed => 2#8

def kind? (b : Byte) : Option MessageKind :=
  if b = 0#8 then some .order else if b = 1#8 then some .value else none

def kindField : MessageKind → Byte
  | .order => 0#8
  | .value => 1#8

def dispositionField : Disposition → Byte
  | .seen => 0#8
  | .plan => 1#8
  | .echo => 2#8
  | .held => 3#8
  | .executed => 4#8
  | .declined => 5#8
  | .foreign => 6#8
  | .noted => 7#8

def positionField : Position → Byte
  | .a => 0#8
  | .b => 1#8

/-! ## Command codes (R175) -/

/-- The codes that name a command. -/
def commandCodes : List Byte :=
  [0x01#8, 0x02#8, 0x03#8, 0x04#8, 0x10#8, 0x11#8, 0x12#8, 0x20#8, 0x21#8, 0x22#8, 0x23#8, 0x24#8,
    0x25#8, 0x30#8, 0x31#8, 0x32#8, 0x33#8, 0x40#8, 0x41#8, 0x42#8, 0x43#8, 0x44#8, 0x45#8, 0x46#8]
  ++ [0x50#8, 0x51#8, 0x52#8, 0x53#8, 0x54#8, 0x55#8, 0x56#8, 0x57#8, 0x58#8, 0x60#8, 0x7F#8]

/-- The code of PORT RESET. -/
def portResetCode : Byte := 0x7F#8

/-! ## Service messages (R177, R178) -/

def codeNone : Byte := 0x00#8
def codeLoopAll : Byte := 0x01#8
def codeLoopSlot : Byte := 0x02#8
def codeSendBadChecks : Byte := 0x03#8
def codeExpectBadChecks : Byte := 0x04#8
def codeClearTests : Byte := 0x05#8
def codeDecline : Byte := 0x06#8
def codePlanOffer : Byte := 0x10#8
def codePlanAgree : Byte := 0x11#8
def codePlanRefuse : Byte := 0x12#8
def codePlanWithdraw : Byte := 0x13#8

/-- The four plan codes (R44). -/
def isPlanCode (code : Byte) : Bool :=
  code = codePlanOffer || code = codePlanAgree || code = codePlanRefuse || code = codePlanWithdraw

/-- The message is an ORDER with a plan code (R44, R55). -/
def Message.isPlan (m : Message) : Bool := m.kind = .order && isPlanCode m.code

/-- The four bytes of a message on the line (R178). -/
def Message.bytes (m : Message) : List Byte :=
  [(m.target ++ 0#4) ||| kindField m.kind, m.code, lowByte m.argument, highByte m.argument]

/-- The message of four received bytes; bits 3 to 1 of byte 0 are disregarded (R178). -/
def messageOf (b0 b1 b2 b3 : Byte) : Message where
  target := b0.extractLsb' 4 4
  kind := if b0.getLsbD 0 then .value else .order
  code := b1
  argument := wordOf b2 b3

/-- The target is PEER or ALL (R44). -/
def targetsPeer (target : BitVec 4) : Bool := target = 0#4 || target = 15#4

/-- The argument of PLAN REFUSE (R177). -/
def refusalArgument : RefusalReason → Word
  | .busy => 1#16
  | .pattern => 2#16

/-! ## The unit header (R181) -/

/-- Count in bits 6 to 0, the END mark in bit 7. -/
def unitHeader (count : Nat) (endMark : Bool) : Byte :=
  byteOf (count % 128) ||| (if endMark then 0x80#8 else 0#8)

def headerCount (b : Byte) : Nat := (b &&& 0x7F#8).toNat
def headerEnd (b : Byte) : Bool := b.msb

/-! ## Markers (R183) -/

def frameMarker : Byte := 0x1B#8
def cycleMarker : Byte := 0x2D#8

end Sys2Proof.Machine
end

