-- ==== Sys2Proof/Machine/LineCode.lean ====
section
/-! DEFINITION. Bytes as bits: the order of the bits on the serial ports (R155), the bits of a frame on the
trunk and how an unframed receiver finds a byte among them (R182, R183). -/

namespace Sys2Proof.Machine

open Sys2Proof

/-- The bits of a byte, most significant first (R155, R183). -/
def byteBits (b : Byte) : List Bool := (List.range 8).map fun i => b.getMsbD i

/-- The byte of eight bits, most significant first (R155, R183). -/
def bitsByte (bits : List Bool) : Byte := bits.foldl (fun r b => r <<< 1 ||| if b then 1#8 else 0#8) 0#8

/-- The bytes that a run of bits completes, in order; a byte left incomplete is discarded (R155). -/
def completeBytes (bits : List Bool) : List Byte :=
  (List.range (bits.length / 8)).map fun i => bitsByte ((bits.drop (8 * i)).take 8)

/-- The bit times of a frame period, 500 µs (R183). -/
def frameBitTimes : Nat := 1024

/-- The one bits before a zero bit that mark it as the first of a byte (R183). -/
def gapBits : Nat := 64

/-- The bits of a frame period: the frame's 98 bytes, then one bits (R1, R182, R183). -/
def frameBits (marker : Byte) (payload : Payload) (service : Byte) : List Bool :=
  (marker :: payload.toList ++ [service]).flatMap byteBits ++ List.replicate 240 true

/-- The transmit pair through the two halves of each bit time, true for positive: a one is positive and then
negative, a zero the reverse (R183). -/
def pairHalves (bits : List Bool) : List Bool := bits.flatMap fun b => [b, !b]

/-- The byte whose first bit is bit `n`: a zero after at least 64 one bits (R183). -/
def byteAt (n : Nat) (bits : List Bool) : Option Byte :=
  let byte := (bits.drop n).take 8
  if gapBits ≤ n && ((bits.drop (n - gapBits)).take gapBits).all id && byte.length == 8
      && byte.head? == some false then some (bitsByte byte)
  else none

/-- The first byte that the receiver finds, `ones` one bits having come just before (R183). -/
def findByteAfter : Nat → List Bool → Option Byte
  | _, [] => none
  | ones, true :: rest => findByteAfter (ones + 1) rest
  | ones, false :: rest =>
    if ones < gapBits then findByteAfter 0 rest
    else if rest.length < 7 then none
    else some (bitsByte (false :: rest.take 7))

/-- The first byte that the receiver finds in the bits (R183). One bits that end the byte looked at before them
are not counted in its run of 64. DESIGN CHOICE, log entry 21. -/
def findByte (bits : List Bool) : Option Byte := findByteAfter 0 bits

end Sys2Proof.Machine
end

