-- ==== Sys2Proof/Config.lean ====
section
/-! DEFINITION. What the manual leaves open for the part to fix: the free values. -/

namespace Sys2Proof

/-- The free bytes: one unknown byte for each number of a use. CHANNEL STATUS of a CLOSED channel
draws its bytes 6 to 8 from it, because R126 reads them "in the table of the channel's direction"
and a CLOSED channel has no direction (R114). A byte written to a data window draws the byte that SDOn
carries meanwhile, which R155 and R156 do not give. No body: nothing is known of any value.
DESIGN CHOICE, log entries 2 and 27. -/
opaque Config.freeByte : Nat → Byte

end Sys2Proof
end

