-- ==== Sys2Proof/Machine/Flags.lean ====
section
/-! DEFINITION. Every flag and check computation of the manual: the event bits (R172), the flags byte
of the status field (R179, R180), the flags of a cell result (R175) and the cycle check (R9). -/

namespace Sys2Proof.Machine

open Sys2Proof

/-! ## Events -/

/-- The bit of EVENTS and MASK that stands for an event (R172). -/
def Event.bit : Event → Nat
  | .cmdDone => 0
  | .completion => 1
  | .halted => 2
  | .unclaimed => 3
  | .badUnit => 4
  | .dataSpill => 5
  | .access => 6
  | .cmdOverrun => 7
  | .link => 8
  | .wakeSeen => 9
  | .plan => 10
  | .service => 11
  | .cell => 12
  | .looped => 13

/-- The word with one bit set. -/
def oneBit (n : Nat) : Word := 1#16 <<< n

/-- The event set holding one event. -/
def Event.word (e : Event) : Word := oneBit e.bit

/-- The bits of EVENTS and MASK that stand for events; bits 14 and 15 read as 0 (R172). -/
def eventBits : Word := 0x3FFF#16

/-- The event is in the port's event set (R161). -/
def PortState.holds (q : PortState) (e : Event) : Bool := q.events.getLsbD e.bit

/-- INTn is asserted: the event set and the mask have an event in common (R163). -/
def PortState.interruptAsserted (q : PortState) : Bool := q.events &&& q.mask != 0#16

/-! ## The status field -/

/-- The seven flags of the flags byte (R8). -/
inductive StatusFlag where
  | ready | demand | leaving | farError | bank | looping | clockRole
  deriving DecidableEq, Repr

/-- The bit of the flags byte (R179). -/
def StatusFlag.bit : StatusFlag → Nat
  | .ready => 0
  | .demand => 1
  | .leaving => 2
  | .farError => 3
  | .bank => 4
  | .looping => 5
  | .clockRole => 6

/-- A flag of a flags byte. -/
def flagSet (flags : Byte) (f : StatusFlag) : Bool := flags.getLsbD f.bit

/-- A flags byte with one flag as given (R180: 1 for set, 0 for clear). -/
def flagByte (f : StatusFlag) (on : Bool) : Byte := if on then 1#8 <<< f.bit else 0#8

/-- A flags byte composed of its seven flags, bit 7 as 0 (R179). -/
def composeFlagsByte (ready demand leaving farError bank looping clockRole : Bool) : Byte :=
  flagByte .ready ready ||| flagByte .demand demand ||| flagByte .leaving leaving
    ||| flagByte .farError farError ||| flagByte .bank bank ||| flagByte .looping looping
    ||| flagByte .clockRole clockRole

/-- A received flags byte as it is kept and used: bit 7 disregarded (R180). -/
def receivedFlags (b : Byte) : Byte := b &&& 0x7F#8

/-! ## The cell result -/

/-- The result flags of a cell command: bit 0 ZERO, bit 1 CARRY (R175). -/
def cellFlags (zero carry : Bool) : Byte :=
  (if zero then 1#8 else 0#8) ||| (if carry then 2#8 else 0#8)

/-! ## The error counters -/

/-- A counter that stays at 255 (R15, R16). -/
def countUp (n : Byte) : Byte := if n = 255#8 then 255#8 else n + 1#8

/-! ## The cycle check -/

/-- Hands `n` on as a numeral, so that a long computation is evaluated a piece at a time. -/
def settled {α : Type} (n : Nat) (k : Nat → α) : α :=
  match n with
  | 0 => k 0
  | m + 1 => k (m + 1)

/-- One bit into the check register: shifted toward its most significant end, then combined with
0x1021 when the bit shifted out differs from the data bit (R9). -/
def checkBit (r : Word) (d : Bool) : Word :=
  if r.msb != d then (r <<< 1) ^^^ 0x1021#16 else r <<< 1

/-- The low `n` bits of a byte into the register, the most significant first (R9). -/
def checkBits (b : Byte) : Nat → Word → Word
  | 0, r => r
  | n + 1, r => settled (checkBit r (b.getLsbD n)).toNat fun v => checkBits b n (BitVec.ofNat 16 v)

/-- One byte into the register (R9). -/
def checkByte (b : Byte) (r : Word) : Word := checkBits b 8 r

/-- Bytes into the register, in transmission order (R9). -/
def checkBytes : List Byte → Word → Word
  | [], r => r
  | b :: bs, r => settled (checkByte b r).toNat fun v => checkBytes bs (BitVec.ofNat 16 v)

/-- The register's starting value (R9). -/
def checkStart : Word := 0xFFFF#16

/-- What one frame adds to the check of its cycle: its payload, then its service byte in frames 0 to
9 (R9). -/
def checkFrame (f : FrameNo) (payload : Payload) (service : Byte) (r : Word) : Word :=
  checkBytes (payload.toList ++ if f.val ≤ 9 then [service] else []) r

end Sys2Proof.Machine
end

