-- ==== Sys2Proof/Machine/Ops.lean ====
section
/-! DEFINITION. The named operations over the registers, the buffer pool, the areas, the cells and
the orders: the one place where each of them is read and written. -/

namespace Sys2Proof.Machine

open Sys2Proof

/-! ## Ports and events -/

/-- One port's value. -/
def PerPort.get {α : Type} (x : PerPort α) : Port → α
  | .p1 => x.p1
  | .p2 => x.p2
  | .p3 => x.p3

/-- One port's value replaced. -/
def PerPort.set {α : Type} (x : PerPort α) (p : Port) (a : α) : PerPort α :=
  match p with
  | .p1 => { x with p1 := a }
  | .p2 => { x with p2 := a }
  | .p3 => { x with p3 := a }

/-- A port's own state. -/
def State.port (s : State) (p : Port) : PortState := s.ports.get p

/-- A port's own state replaced. -/
def State.setPort (s : State) (p : Port) (q : PortState) : State :=
  { s with ports := s.ports.set p q }

/-- An event added to a port's event set (R161). -/
def PortState.raise (q : PortState) (e : Event) : PortState := { q with events := q.events ||| e.word }

/-- Raises an event on a port; an event already in the set leaves the set as it is (R161). -/
def State.raise (s : State) (p : Port) (e : Event) : State := s.setPort p ((s.port p).raise e)

/-- Raises an event to all ports. -/
def State.raiseAll (s : State) (e : Event) : State := ((s.raise .p1 e).raise .p2 e).raise .p3 e

/-- Raises an event on a channel's owner; a CLOSED channel has none (R114). -/
def State.raiseOwner (s : State) (owner : Option Port) (e : Event) : State :=
  match owner with
  | some p => s.raise p e
  | none => s

/-! ## Channels, areas, cells -/

def State.channel (s : State) (c : ChannelNo) : Channel := s.channels[c.val]
def State.setChannel (s : State) (c : ChannelNo) (x : Channel) : State :=
  { s with channels := s.channels.set c.val x }

def State.area (s : State) (a : AreaNo) : Area := s.areas[a.val]
def State.setArea (s : State) (a : AreaNo) (x : Area) : State :=
  { s with areas := s.areas.set a.val x }

def State.cell (s : State) (k : CellNo) : Cell := s.cells[k.val]
def State.setCell (s : State) (k : CellNo) (x : Cell) : State :=
  { s with cells := s.cells.set k.val x }

/-- The channel order of a step: the list's first mention of each channel, then the channels it does
not name, in rising order. A well-formed order is read as it stands (log entry 3). -/
def channelOrder (order : ChannelOrder) : List ChannelNo :=
  let named := order.eraseDups
  named ++ (List.finRange 8).filter fun c => !named.contains c

/-! ## The buffer pool (R101) -/

/-- The pool's bytes: addresses 0 to 16,383. -/
def poolSize : Nat := 16384

/-- What a byte of the pool that nothing has written reads as. The manual leaves the contents after
power-on undefined and lets no read reach them (R101). DESIGN CHOICE, log entry 7. -/
def poolUnwritten : Byte := 0#8

/-- The pool's byte at an address. -/
def Memory.read : List Host.Cell → Nat → Byte
  | [], _ => poolUnwritten
  | (a, b) :: rest, x => if a = x then b else Memory.read rest x

/-- A pair put in its place by address, before the pairs of higher addresses. -/
def Memory.insert (x : Nat) (v : Byte) : List Host.Cell → List Host.Cell
  | [] => [(x, v)]
  | (a, b) :: rest =>
    if x < a then (x, v) :: (a, b) :: rest
    else if x = a then (x, v) :: rest
    else (a, b) :: Memory.insert x v rest

/-- The entry of an address taken out. -/
def Memory.remove (x : Nat) : List Host.Cell → List Host.Cell
  | [] => []
  | (a, b) :: rest => if a = x then rest else (a, b) :: Memory.remove x rest

/-- The pool with a byte written. Writing what an unlisted address reads as removes the entry; an
address beyond the pool does not exist and keeps nothing. -/
def Memory.write (m : List Host.Cell) (x : Nat) (v : Byte) : List Host.Cell :=
  if x < poolSize then
    if v = poolUnwritten then Memory.remove x m else Memory.insert x v m
  else m

/-- The canonical form: addresses strictly rising, all within the pool, and no entry equal to what an
unlisted address reads as. -/
abbrev Memory.wf (m : List Host.Cell) : Prop :=
  m.Pairwise (fun a b => a.1 < b.1) ∧ ∀ c ∈ m, c.1 < poolSize ∧ c.2 ≠ poolUnwritten

/-! ## The ring of an area (R101, R103) -/

/-- 64 × count bytes; 0 for an UNDEFINED area (R101, R107). -/
def Area.size (a : Area) : Nat := 64 * a.count.getD 0

/-- The size minus the fill level (R103). -/
def Area.free (a : Area) : Nat := a.size - a.fill

/-- The pool address of byte offset `o`: byte o mod 64 of block first + o div 64 (R101). -/
def Area.address (a : Area) (o : Nat) : Nat := 64 * (a.first.getD 0 + o / 64) + o % 64

/-- A position advanced by one, from size − 1 back to 0 (R103). -/
def Area.advance (a : Area) (pos : Nat) : Nat := if pos + 1 < a.size then pos + 1 else 0

/-- An append (R103). Its callers make it while the free space is above 0. -/
def ringAppend (s : State) (n : AreaNo) (b : Byte) : State :=
  let a := s.area n
  { s with pool := Memory.write s.pool (a.address a.writePos) b }.setArea n
    { a with writePos := a.advance a.writePos, fill := a.fill + 1 }

/-- The byte a removal takes (R103). -/
def ringByte (s : State) (n : AreaNo) : Byte :=
  Memory.read s.pool ((s.area n).address (s.area n).readPos)

/-- A removal (R103). Its callers make it while the fill level is above 0. -/
def ringRemove (s : State) (n : AreaNo) : State :=
  let a := s.area n
  s.setArea n { a with readPos := a.advance a.readPos, fill := a.fill - 1 }

/-- Bytes appended one after another, in order (R112). -/
def ringAppendAll (n : AreaNo) : List Byte → State → State
  | [], s => s
  | b :: bs, s => ringAppendAll n bs (ringAppend s n b)

/-- `k` removals: the bytes in ring order, and the state after them (R112). -/
def ringTake (n : AreaNo) : Nat → State → List Byte × State
  | 0, s => ([], s)
  | k + 1, s =>
    let rest := ringTake n k (ringRemove s n)
    (ringByte s n :: rest.1, rest.2)

/-- The positions and the fill level at 0 (R104, R106). -/
def Area.emptied (a : Area) : Area := { a with readPos := 0, writePos := 0, fill := 0 }

/-! ## Cells: values, change records, gates (R143 to R153) -/

/-- A change of a cell's value recorded on one port: when the port watches the cell, the cell joins
its changed set and CELL is raised (R153). -/
def PortState.recordChange (q : PortState) (k : CellNo) : PortState :=
  if q.watch.getLsbD k.val then { q with changed := q.changed ||| oneBit k.val }.raise .cell else q

/-- A change of a cell's value recorded on every watching port (R153). -/
def State.recordChange (s : State) (k : CellNo) : State :=
  { s with ports :=
    ⟨s.ports.p1.recordChange k, s.ports.p2.recordChange k, s.ports.p3.recordChange k⟩ }

/-- Gives a cell a value; one that differs from the old is a change of value (R153). -/
def State.writeCell (s : State) (k : CellNo) (v : Word) : State :=
  if (s.cell k).value = v then s
  else (s.setCell k { s.cell k with value := v }).recordChange k

/-- A channel's state field replaced. -/
def State.setChannelState (s : State) (c : ChannelNo) (x : ChannelState) : State :=
  s.setChannel c { s.channel c with state := x }

/-- One gate take: the cell goes down by one, the oldest waiter leaves the list and becomes ACTIVE
(R149). `rest` are the waiters behind it. -/
def gateTake (s : State) (k : CellNo) (w : ChannelNo) (rest : List ChannelNo) : State :=
  let s := s.writeCell k ((s.cell k).value - 1#16)
  (s.setCell k { s.cell k with waiters := rest }).setChannelState w .active

/-- Takes by the waiters in turn while the cell stands above 0 (R149): the state after them and how
many there were. -/
def gateTakes (k : CellNo) : List ChannelNo → State → State × Nat
  | [], s => (s, 0)
  | w :: rest, s =>
    if (s.cell k).value = 0#16 then (s, 0)
    else
      let r := gateTakes k rest (gateTake s k w rest)
      (r.1, r.2 + 1)

/-- The gate rule, applied to a cell at the end of a step that may have raised it (R149). -/
def gateRule (s : State) (k : CellNo) : State × Nat := gateTakes k (s.cell k).waiters s

/-- A channel joins a cell's waiter list at its tail, and the gate rule is applied (R148). -/
def joinGate (s : State) (c : ChannelNo) (k : CellNo) : State :=
  (gateRule (s.setCell k { s.cell k with waiters := (s.cell k).waiters ++ [c] }) k).1

/-- A channel leaves a cell's waiter list without a take; those behind it move up (R148). -/
def leaveGate (s : State) (c : ChannelNo) (k : CellNo) : State :=
  s.setCell k { s.cell k with waiters := (s.cell k).waiters.filter (· != c) }

/-- A completion increment: up by one, staying at 65,535, with the gate rule (R151). -/
def incrementCell (s : State) (k : CellNo) : State :=
  let v := (s.cell k).value
  (gateRule (s.writeCell k (if v = 0xFFFF#16 then v else v + 1#16)) k).1

/-- A peer write: the value becomes the argument, with the gate rule (R152). -/
def peerWrite (s : State) (k : CellNo) (v : Word) : State := (gateRule (s.writeCell k v) k).1

/-! ## Orders: becoming current and ending (R115, R123, R127, R139) -/

/-- Byte count minus bytes moved (R116). -/
def Order.remaining (o : Order) : Nat := o.count - o.moved

/-- The channel is open: in every state other than CLOSED (R114). -/
def Channel.isOpen (x : Channel) : Bool := x.state != .closed

/-- The channel has a current order (R115). -/
def Channel.hasCurrent (x : Channel) : Bool := x.state == .waiting || x.state == .active

/-- The head of the queue becomes current: ACTIVE without a gate, else WAITING in its gate cell's list
with the gate rule at once; with no order the channel is IDLE (R123, R127). -/
def becomeCurrent (s : State) (c : ChannelNo) : State :=
  match (s.channel c).queue with
  | [] => s.setChannelState c .idle
  | o :: _ =>
    match o.gate with
    | none => s.setChannelState c .active
    | some k => joinGate (s.setChannelState c .waiting) c k

/-- A WAITING channel leaves its gate cell's waiter list (R148); any other is left as it is. -/
def leaveIfWaiting (s : State) (c : ChannelNo) : State :=
  if (s.channel c).state = .waiting then
    match (s.channel c).queue with
    | { gate := some k, .. } :: _ => leaveGate s c k
    | _ => s
  else s

/-- A completion record appended to the owner's queue, its order count one lower, and COMPLETION
raised (R127, steps 2 and 3). -/
def PortState.complete (q : PortState) (r : CompletionRecord) : PortState :=
  { q with completions := q.completions ++ [r], orderCount := q.orderCount - 1 }.raise .completion

def recordEnd (s : State) (c : ChannelNo) (o : Order) (outcome : OrderOutcome) : State :=
  match (s.channel c).owner with
  | some p => s.setPort p ((s.port p).complete ⟨c, o.tag, outcome, o.moved, s.framer.cycle⟩)
  | none => s

/-- The completion cell of an order that ended DONE or SHORT is incremented (R127, step 4). -/
def countCompletion (s : State) (o : Order) (outcome : OrderOutcome) : State :=
  if outcome = .done || outcome = .short then
    match o.completionCell with
    | some k => incrementCell s k
    | none => s
  else s

/-- The head order ends: steps 1 to 4 of R127. -/
def endHead (s : State) (c : ChannelNo) (outcome : OrderOutcome) : State :=
  match (s.channel c).queue with
  | [] => s
  | o :: rest =>
    countCompletion (recordEnd (s.setChannel c { s.channel c with queue := rest }) c o outcome) o outcome

/-- The head order ends and the next becomes current, or the channel becomes IDLE: R127 whole, for an
end that neither halts nor closes the channel. -/
def endAndAdvance (s : State) (c : ChannelNo) (outcome : OrderOutcome) : State :=
  becomeCurrent (endHead s c outcome) c

/-- The channel becomes HALTED with a reason, and HALTED is raised on the owner (R139). -/
def haltChannel (s : State) (c : ChannelNo) (reason : HaltReason) : State :=
  (s.setChannel c { s.channel c with state := .halted, halt := some reason }).raiseOwner
    (s.channel c).owner .halted

/-- The current order ends with an outcome that halts the channel; a WAITING one leaves its waiter
list first (R127, R139). -/
def endAndHalt (s : State) (c : ChannelNo) (outcome : OrderOutcome) (reason : HaltReason) : State :=
  haltChannel (endHead (leaveIfWaiting s c) c outcome) c reason

/-- Every order of the queue ends ABORTED, head first, and none becomes current (R120, R124). -/
def abortOrders (c : ChannelNo) : List Order → State → State
  | [], s => s
  | _ :: rest, s => abortOrders c rest (endHead s c .aborted)

/-! ## What several blocks ask of the link -/

/-- The claim set is not empty (R24). -/
def Link.demands (l : Link) : Bool := l.claims.p1 || l.claims.p2 || l.claims.p3

/-- The loop set is not empty (R8). -/
def Service.looping (v : Service) : Bool := (List.finRange 24).any fun i => v.loopSet[i.val]

end Sys2Proof.Machine
end

