-- ==== Sys2Proof/Machine/Engine.lean ====
section
/-! DEFINITION. The command engine: which command it takes, and how a command completes (R159, R160). -/

namespace Sys2Proof.Machine

open Sys2Proof

/-- The rotation that starts with the port after the last port served (R159). -/
def portRotation : Port → List Port
  | .p1 => [.p2, .p3, .p1]
  | .p2 => [.p3, .p1, .p2]
  | .p3 => [.p1, .p2, .p3]

/-- The port whose command the engine takes next: the first PENDING slot of the rotation (R159). -/
def State.nextTaken (s : State) : Option Port :=
  (portRotation s.lastServed).find? fun p => (s.port p).command == .pending

/-- The engine's next take is a command of this code from this port (R159). -/
def engineTakes (s : State) (p : Port) (code : Byte) : Bool :=
  s.nextTaken == some p && (s.port p).code == code

/-- What a command answers: its result code and, on DONE and EMPTY, its results (R160). -/
structure Reply where
  code : ResultCode
  results : List Byte
  deriving DecidableEq, Repr

def Reply.done (results : List Byte) : Reply := ⟨.done, results⟩
def Reply.empty (results : List Byte) : Reply := ⟨.empty, results⟩
/-- A refusal: every byte of the result block is 0x00 (R160). -/
def Reply.refuse (code : ResultCode) : Reply := ⟨code, []⟩

/-- The result code leaves the slot DONE (R160, R173). -/
def ResultCode.succeeds (r : ResultCode) : Bool := r == .done || r == .empty

/-- A command's completion on its port: result code, whole result block, command state, CMD_DONE
(R160, steps 1 to 4). -/
def PortState.finish (q : PortState) (r : Reply) : PortState :=
  { q with
    resultCode := r.code
    result := blockOf r.results
    command := if r.code.succeeds then .done else .failed }.raise .cmdDone

/-- A command completes, and its port becomes the last port served (R159, R160). -/
def complete (p : Port) (r : Reply) (s : State) : State :=
  { s.setPort p ((s.port p).finish r) with lastServed := p }

/-- The engine takes a command: it acts and completes in one step (R160). A row whose command is not
the engine's next take changes nothing (log entry 4). -/
def takeCommand (takes : Bool) (p : Port) (act : State → Reply × State) (s : State) :
    Host.Outcome State Fault Refusal :=
  if takes then .next (complete p (act s).1 (act s).2) else .next s

end Sys2Proof.Machine
end

