-- ==== Sys2Proof/Machine/Windows.lean ====
section
/-! DEFINITION. The windows of a port: the access header (R171, R172), the rows that a transaction makes
(R155, R156), what the read windows show (R110, R111, R156, R162, R163, R172), and the select line and SDO
of a transaction (R155). -/

namespace Sys2Proof.Machine

open Sys2Proof

/-! ## The access header (R171, R172) -/

/-- The windows of a port (R171). -/
inductive Window where
  | command | status | parameter | result | events | mask
  | data (c : ChannelNo)
  deriving DecidableEq, Repr

/-- The window of a number (R171). -/
def windowOf (n : Nat) : Option Window :=
  if n = 0 then some .command
  else if n = 1 then some .status
  else if n = 2 then some .parameter
  else if n = 3 then some .result
  else if n = 4 then some .events
  else if n = 5 then some .mask
  else if h : n - 6 < 8 then some (.data ⟨n - 6, h⟩)
  else none

/-- What a transaction does: it reads a window, writes one, or meets no target (R156). -/
inductive Access where
  | read (w : Window)
  | write (w : Window)
  | noTarget
  deriving DecidableEq, Repr

/-- The window may be read (R171). -/
def Window.readable (w : Window) : Bool := w != .command

/-- The window may be written (R171). -/
def Window.writable (w : Window) : Bool := w != .status && w != .result

/-- The access header decoded: bit 7 for a read, bits 6 to 4 clear, bits 3 to 0 the window (R172). -/
def accessOf (header : Byte) : Access :=
  if header &&& 0x70#8 != 0#8 then .noTarget
  else
    match windowOf (header &&& 0x0F#8).toNat with
    | none => .noTarget
    | some w =>
      if header.msb then (if w.readable then .read w else .noTarget)
      else if w.writable then .write w else .noTarget

/-- The access header meets no target (R156, R172). -/
def meetsNoTarget (header : Byte) : Bool := accessOf header == .noTarget

/-- The number of a window (R171). -/
def Window.number : Window → Nat
  | .command => 0
  | .status => 1
  | .parameter => 2
  | .result => 3
  | .events => 4
  | .mask => 5
  | .data c => 6 + c.val

/-- The header of a write of a window (R172). -/
def writeHeader (w : Window) : Byte := byteOf w.number

/-- The header of a read of a window (R172). -/
def readHeader (w : Window) : Byte := byteOf (0x80 + w.number)

/-- The window's transactions have an offset byte after the header (R155, R172). -/
def Window.hasOffset (w : Window) : Bool := w == .parameter || w == .result

/-- The header writes the RESULT window: an access that meets no target and has an offset byte of its own
(R171, R172). -/
def writesResult (header : Byte) : Bool := header == writeHeader .result

/-! ## The rows of a transaction (R155, R156) -/

/-- The rows of a write on a data window, one for each byte; the first begins the transaction unless one of
its bytes has gone before, and the last ends it. -/
def windowWrites (p : Port) (c : ChannelNo) : Bool → List Byte → List Instr
  | _, [] => []
  | begins, [b] => [.dataWindowWrite p c ⟨b, begins, true⟩]
  | begins, b :: rest => .dataWindowWrite p c ⟨b, begins, false⟩ :: windowWrites p c false rest

/-- The rows of a read of `n` bytes on a data window. -/
def windowReads (p : Port) (c : ChannelNo) : Bool → Nat → List Instr
  | _, 0 => []
  | begins, 1 => [.dataWindowRead p ⟨c, begins, true⟩]
  | begins, n + 2 => .dataWindowRead p ⟨c, begins, false⟩ :: windowReads p c false (n + 1)

/-- The row of a whole transaction, when a byte has come for it. -/
def rowFor (data : List Byte) (row : Instr) : List Instr := if data.isEmpty then [] else [row]

/-- The rows that a transaction makes, by its header, the bytes written after it and the number of bytes begun
after it. A read of STATUS, PARAMETER, RESULT, EVENTS or MASK changes nothing and is no row; nor is a
transaction that ends before the byte on which it would act (R156, R171, R172). -/
def accessRows (p : Port) (header : Byte) (data : List Byte) (begun : Nat) : List Instr :=
  match accessOf header with
  | .noTarget => [.noTargetAccess p header data]
  | .write .command => rowFor data (.commandWrite p data)
  | .write .parameter =>
    match data with
    | [] => []
    | offset :: rest => rowFor rest (.parameterWrite p offset rest)
  | .write .events => rowFor data (.eventsWrite p data)
  | .write .mask => rowFor data (.maskWrite p data)
  | .write (.data c) => windowWrites p c true data
  | .read (.data c) => windowReads p c true begun
  | _ => []

/-- The rows that a transaction makes, by the bits that SDIn carries while SELn is low. Before its header is
complete it does nothing; a written byte counts when it is complete, a read byte when it is begun, which is
here with its first bit (R109, R110, R155; log entry 19). -/
def transactionRows (p : Port) (bits : List Bool) : List Instr :=
  match completeBytes bits with
  | [] => []
  | header :: data => accessRows p header data ((bits.length - 1) / 8)

/-! ## What the read windows show -/

/-- A byte of a window of `bytes`; beyond them it reads 0x00 (R156). -/
def windowByte (bytes : List Byte) (i : Nat) : Byte := bytes.getD i 0#8

/-- STATUS: command state and result code, last code, completion count, order count (R156, R172). -/
def statusWindow (q : PortState) : List Byte :=
  [byteOf (64 * q.command.number + q.resultCode.number), q.code, byteOf q.completions.length,
    byteOf q.orderCount]

/-- PARAMETER and RESULT from a starting offset upward (R156). -/
def parameterWindow (q : PortState) (offset : Byte) : List Byte := q.parameters.toList.drop offset.toNat
def resultWindow (q : PortState) (offset : Byte) : List Byte := q.result.toList.drop offset.toNat

/-- EVENTS and MASK, low byte first (R162, R163, R172). -/
def eventsWindow (q : PortState) : List Byte := field16 q.events
def maskWindow (q : PortState) : List Byte := field16 q.mask

/-- The area a data-window byte of this port and direction meets: that of an open channel the port
owns in that direction (R109, R110, R111). -/
def windowArea (s : State) (p : Port) (c : ChannelNo) (d : Direction) : Option AreaNo :=
  let x := s.channel c
  if x.isOpen && x.owner == some p && x.direction == some d then x.area else none

/-- The byte that a read byte of a data window is sent as: the ring's next byte, or 0x00 (R110, R111). -/
def dataWindowByte (s : State) (p : Port) (c : ChannelNo) : Byte :=
  match windowArea s p c .inn with
  | none => 0#8
  | some n => if 0 < (s.area n).fill then ringByte s n else 0#8

/-- The bytes of a window that a read does not change, from an offset where it has one (R156). -/
def windowBytes (q : PortState) (offset : Byte) : Window → List Byte
  | .status => statusWindow q
  | .parameter => parameterWindow q offset
  | .result => resultWindow q offset
  | .events => eventsWindow q
  | .mask => maskWindow q
  | .command | .data _ => []

/-- The bytes of one read of the window are fixed together when its first data byte begins (R156, R162). The
bytes of the other windows are fixed each as it begins (R110, R155). -/
def Window.fixedTogether (w : Window) : Bool := w == .status || w == .result || w == .events

/-- Data byte `i` of a read of a window that has begun in state `first`, the byte itself beginning in state
`now` (R110, R111, R155, R156, R162, R163). -/
def readByte (p : Port) (offset : Byte) (w : Window) (first now : State) (i : Nat) : Byte :=
  match w with
  | .data c => dataWindowByte now p c
  | _ => windowByte (windowBytes ((if w.fixedTogether then first else now).port p) offset w) i

/-- What SDOn carries over a transaction that reads, `moments` holding the state in which each of its data
bytes begins: 0x00 during the header and during the offset byte, then the bytes of the window, or 0x00 where
no target is met (R155, R156). Of a write only the header and the offset byte are given (log entry 27). -/
def shiftedOut (p : Port) (header offset : Byte) (moments : List State) : List Byte :=
  let opening (w : Window) : List Byte := if w.hasOffset then [0#8, 0#8] else [0#8]
  match accessOf header with
  | .read w => opening w ++ moments.mapIdx fun i now => readByte p offset w (moments.headD now) now i
  | .write w => opening w
  | .noTarget => 0#8 :: List.replicate moments.length 0#8

/-! ## The select line and SDO of a transaction (R155) -/

/-- A transaction's select line and SDO replaced. -/
def State.setTransaction (s : State) (p : Port) (x : Transaction) (sdo : Option Byte) : State :=
  s.setPort p { s.port p with transaction := x, sdo := sdo }

/-- SELn is driven low and the header taken, during which SDOn carries 0x00 (R155). -/
def State.beginAccess (s : State) (p : Port) (header : Byte) : State :=
  s.setTransaction p (.taken header) (some 0#8)

/-- SELn is driven high, and SDOn is high-impedance (R155). -/
def State.endAccess (s : State) (p : Port) : State := s.setTransaction p .off none

/-- The byte SDOn carries (R110, R155). -/
def State.shiftOut (s : State) (p : Port) (b : Byte) : State :=
  s.setPort p { s.port p with sdo := some b }

/-- A byte of a data window's read sent on SDOn (R110, R155). -/
def State.sendByte (s : State) (p : Port) (b : Byte) : State :=
  s.setPort p { s.port p with sdo := some b, sent := (s.port p).sent ++ [b] }

/-- A transaction on a data window begins: nothing is sent for it yet. -/
def State.clearSent (s : State) (p : Port) : State := s.setPort p { s.port p with sent := [] }

/-- A whole transaction: begun with its header, acted on, and ended (R155). -/
def transact (p : Port) (header : Byte) (act : State → State) (s : State) : State :=
  (act (s.beginAccess p header)).endAccess p

/-- One data byte of a transaction that is taken byte by byte: the transaction begins with it or is in
progress with this header, else the port disregards the byte; SELn is driven high after it where it ends
(R155, R170). -/
def transactByte (p : Port) (header : Byte) (begins ends : Bool) (act : State → State) (s : State) : State :=
  let s := if begins then (s.beginAccess p header).clearSent p else s
  let s := if (s.port p).transaction = .taken header then act s else s
  if ends then s.endAccess p else s

end Sys2Proof.Machine
end

