-- ==== Sys2Proof/Machine/Areas.lean ====
section
/-! DEFINITION. The area commands SHAPE AREA, DROP AREA, CLEAR AREA and AREA STATUS (R104 to R107) and
the data windows (R109 to R111). -/

namespace Sys2Proof.Machine

open Sys2Proof

/-- The area is defined: FREE or BOUND (R101). -/
def Area.isDefined (a : Area) : Bool := a.state != .undefined

/-- The area covers a block of the range first, first + 1, up to first + count − 1 (R101). -/
def Area.meetsRange (a : Area) (first count : Nat) : Bool :=
  a.isDefined && a.first.getD 0 < first + count && first < a.first.getD 0 + a.count.getD 0

/-- Another defined area covers a block of the range (R104). -/
def overlapsOther (s : State) (n : AreaNo) (first count : Nat) : Bool :=
  (List.finRange 10).any fun m => m != n && (s.area m).meetsRange first count

/-- A FREE area of a port over a block range, empty (R104). -/
def Area.shaped (p : Port) (first count : Nat) : Area :=
  ⟨.free, some p, some first, some count, 0, 0, 0, none⟩

/-- SHAPE AREA's checks and effect (R104). -/
def shapeArea (p : Port) (s : State) : Reply × State :=
  let first := (param (s.port p) 1).toNat
  let count := (param16 (s.port p) 2).toNat
  match area? (param (s.port p) 0) with
  | none => (.refuse .badParam, s)
  | some n =>
    if count < 1 || 256 < count then (.refuse .badParam, s)
    else if (s.area n).isDefined && (s.area n).holder ≠ some p then (.refuse .heldElsewhere, s)
    else if (s.area n).state = .bound then (.refuse .areaBound, s)
    else if 256 < first + count then (.refuse .range, s)
    else if overlapsOther s n first count then (.refuse .overlap, s)
    else (.done (fieldNat (64 * count)), s.setArea n (Area.shaped p first count))

/-- SHAPE AREA. -/
def execShapeArea (p : Port) (s : State) : Host.Outcome State Fault Refusal :=
  takeCommand (engineTakes s p 0x30#8) p (shapeArea p) s

/-- DROP AREA's checks and effect (R105). -/
def dropArea (p : Port) (s : State) : Reply × State :=
  match area? (param (s.port p) 0) with
  | none => (.refuse .badParam, s)
  | some n =>
    if !(s.area n).isDefined then (.refuse .areaUndefined, s)
    else if (s.area n).holder ≠ some p then (.refuse .heldElsewhere, s)
    else if (s.area n).state = .bound then (.refuse .areaBound, s)
    else (.done [], s.setArea n Area.undefined)

/-- DROP AREA. -/
def execDropArea (p : Port) (s : State) : Host.Outcome State Fault Refusal :=
  takeCommand (engineTakes s p 0x31#8) p (dropArea p) s

/-- The area's channel, when it is BOUND, is ACTIVE (R106). -/
def boundToActive (s : State) (a : Area) : Bool :=
  match a.channel with
  | some c => a.state == .bound && (s.channel c).state == .active
  | none => false

/-- CLEAR AREA's checks and effect (R106). -/
def clearArea (p : Port) (s : State) : Reply × State :=
  match area? (param (s.port p) 0) with
  | none => (.refuse .badParam, s)
  | some n =>
    if !(s.area n).isDefined then (.refuse .areaUndefined, s)
    else if (s.area n).holder ≠ some p then (.refuse .heldElsewhere, s)
    else if boundToActive s (s.area n) then (.refuse .state, s)
    else (.done (fieldNat (s.area n).fill), s.setArea n (s.area n).emptied)

/-- CLEAR AREA. -/
def execClearArea (p : Port) (s : State) : Host.Outcome State Fault Refusal :=
  takeCommand (engineTakes s p 0x32#8) p (clearArea p) s

/-- The AREA STATUS result of a record (R107, R175). -/
def areaResult (a : Area) : List Byte :=
  [areaStateField a.state, portField a.holder, byteOf (a.first.getD 0)]
    ++ fieldNat (a.count.getD 0)
    ++ [numberField a.channel,
        (if a.first.isNone then 1#8 else 0#8) ||| (if a.count.isNone then 2#8 else 0#8)]
    ++ fieldNat a.size ++ fieldNat a.readPos ++ fieldNat a.writePos ++ fieldNat a.fill
    ++ fieldNat a.free

/-- AREA STATUS (R107). -/
def areaStatus (p : Port) (s : State) : Reply × State :=
  match area? (param (s.port p) 0) with
  | none => (.refuse .badParam, s)
  | some n => (.done (areaResult (s.area n)), s)

/-- AREA STATUS. -/
def execAreaStatus (p : Port) (s : State) : Host.Outcome State Fault Refusal :=
  takeCommand (engineTakes s p 0x33#8) p (areaStatus p) s

/-! ## The data windows -/

/-- SDOn during a written byte: the manual gives the bytes shifted out for the header, the offset byte and
read bytes only (R155, R156), so the byte is free (log entry 27). -/
def shiftUnstated (s : State) (p : Port) : State :=
  { s with freeNext := s.freeNext + 1 }.shiftOut p (Config.freeByte s.freeNext)

/-- A byte written to a data window: appended, or discarded with DATA_SPILL or ACCESS (R109, R111). -/
def windowWrite (p : Port) (c : ChannelNo) (b : Byte) (s : State) : State :=
  match windowArea s p c .out with
  | none => s.raise p .access
  | some n => if 0 < (s.area n).free then ringAppend s n b else s.raise p .dataSpill

/-- A byte read from a data window: removed and sent, or 0x00 with DATA_SPILL or ACCESS (R110, R111). -/
def windowRead (p : Port) (c : ChannelNo) (s : State) : State :=
  let sent := s.sendByte p (dataWindowByte s p c)
  match windowArea s p c .inn with
  | none => sent.raise p .access
  | some n => if 0 < (s.area n).fill then ringRemove sent n else sent.raise p .dataSpill

/-- DATA_WINDOW_WRITE (R109, R111, R155). -/
def execDataWindowWrite (p : Port) (c : ChannelNo) (b : WrittenByte) (s : State) :
    Host.Outcome State Fault Refusal :=
  .next (transactByte p (writeHeader (.data c)) b.begins b.ends
    (fun s => windowWrite p c b.byte (shiftUnstated s p)) s)

/-- DATA_WINDOW_READ (R110, R111, R155). -/
def execDataWindowRead (p : Port) (c : ReadByte) (s : State) : Host.Outcome State Fault Refusal :=
  .next (transactByte p (readHeader (.data c.channel)) c.begins c.ends (windowRead p c.channel) s)

end Sys2Proof.Machine
end

