-- ==== Sys2Proof/Machine/Cells.lean ====
section
/-! DEFINITION. The cell commands (R144 to R147, R153, R154). -/

namespace Sys2Proof.Machine

open Sys2Proof

/-- The cell result (R144, R175). -/
def cellResult (old new : Word) (takes : Nat) (carry : Bool) : List Byte :=
  field16 old ++ field16 new ++ [byteOf takes, cellFlags (new == 0#16) carry]

/-- A cell command that may raise the cell: the value written, then the gate rule, in one step
(R143, R149). `carry` is CARRY as the command defines it on the old value. -/
def raisingCommand (value : Word → Word) (carry : Word → Bool) (k : CellNo) (s : State) :
    Reply × State :=
  let old := (s.cell k).value
  let r := gateRule (s.writeCell k (value old)) k
  (.done (cellResult old (r.1.cell k).value r.2 (carry old)), r.1)

/-- A cell command that does not raise the cell: no take follows (R145 to R147). -/
def plainCommand (value : Word → Word) (carry : Word → Bool) (k : CellNo) (s : State) :
    Reply × State :=
  let old := (s.cell k).value
  let t := s.writeCell k (value old)
  (.done (cellResult old (t.cell k).value 0 (carry old)), t)

/-- A command on the cell that the parameter block's byte 0 names; a number above 15 is refused with
BAD_PARAM (R144). -/
def onCell (p : Port) (act : CellNo → State → Reply × State) (s : State) : Reply × State :=
  match cell? (param (s.port p) 0) with
  | some k => act k s
  | none => (.refuse .badParam, s)

/-- A command on one bit of a cell: a bit number above 15 is refused with BAD_PARAM (R144, R147). -/
def onCellBit (p : Port) (act : CellNo → Nat → State → Reply × State) (s : State) : Reply × State :=
  onCell p (fun k s =>
    if (param (s.port p) 1).toNat ≤ 15 then act k (param (s.port p) 1).toNat s
    else (.refuse .badParam, s)) s

/-- The value or amount of a cell command, bytes 1 and 2 (R175). -/
def cellParam (p : Port) (s : State) : Word := param16 (s.port p) 1

/-- CELL READ (R145). -/
def execCellRead (p : Port) (s : State) : Host.Outcome State Fault Refusal :=
  takeCommand (engineTakes s p 0x50#8) p (onCell p (plainCommand id fun _ => false)) s

/-- CELL SET (R145). -/
def execCellSet (p : Port) (s : State) : Host.Outcome State Fault Refusal :=
  takeCommand (engineTakes s p 0x51#8) p
    (onCell p (raisingCommand (fun _ => cellParam p s) fun _ => false)) s

/-- CELL EXCHANGE: CARRY set when the old value was above 0 (R145). -/
def execCellExchange (p : Port) (s : State) : Host.Outcome State Fault Refusal :=
  takeCommand (engineTakes s p 0x52#8) p
    (onCell p (raisingCommand (fun _ => cellParam p s) fun old => old != 0#16)) s

/-- CELL ADD: modulo 65,536, CARRY set on a wrap (R146). -/
def execCellAdd (p : Port) (s : State) : Host.Outcome State Fault Refusal :=
  takeCommand (engineTakes s p 0x53#8) p
    (onCell p (raisingCommand (fun old => old + cellParam p s)
      fun old => 65536 ≤ old.toNat + (cellParam p s).toNat)) s

/-- CELL TAKE: down by one above 0, else unchanged with CARRY set (R146). -/
def execCellTake (p : Port) (s : State) : Host.Outcome State Fault Refusal :=
  takeCommand (engineTakes s p 0x54#8) p
    (onCell p (plainCommand (fun old => if old = 0#16 then old else old - 1#16)
      fun old => old == 0#16)) s

/-- CELL TEST CLEAR: the bit to CARRY, then cleared (R147). -/
def execCellTestClear (p : Port) (s : State) : Host.Outcome State Fault Refusal :=
  takeCommand (engineTakes s p 0x55#8) p
    (onCellBit p fun k b => plainCommand (fun old => old &&& ~~~oneBit b) (fun old => old.getLsbD b) k) s

/-- CELL SET BIT: the bit to CARRY, then set, with the gate rule (R147). -/
def execCellSetBit (p : Port) (s : State) : Host.Outcome State Fault Refusal :=
  takeCommand (engineTakes s p 0x56#8) p
    (onCellBit p fun k b => raisingCommand (fun old => old ||| oneBit b) (fun old => old.getLsbD b) k) s

/-- CELL WATCH: the port's watch flags replaced by the mask; the result carries the masks (R153). -/
def cellWatch (p : Port) (s : State) : Reply × State :=
  let mask := param16 (s.port p) 0
  (.done (cellResult (s.port p).watch mask 0 false), s.setPort p { s.port p with watch := mask })

/-- CELL WATCH. -/
def execCellWatch (p : Port) (s : State) : Host.Outcome State Fault Refusal :=
  takeCommand (engineTakes s p 0x57#8) p (cellWatch p) s

/-- CELLS CHANGED: the changed set as a mask, emptied; new value 0, and ZERO set when the set was empty
(R154). -/
def cellsChanged (p : Port) (s : State) : Reply × State :=
  let old := (s.port p).changed
  (.done (field16 old ++ field16 0#16 ++ [0#8, cellFlags (old == 0#16) false]),
    s.setPort p { s.port p with changed := 0#16 })

/-- CELLS CHANGED. -/
def execCellsChanged (p : Port) (s : State) : Host.Outcome State Fault Refusal :=
  takeCommand (engineTakes s p 0x58#8) p (cellsChanged p) s

end Sys2Proof.Machine
end

