-- ==== Sys2Proof/Machine/SlotPlan.lean ====
section
/-! DEFINITION. The slot plan: its banks, lead slots, capacities and digests (R67 to R77), the swap, the
pending-clear set and the end of the lock (R78 to R80), and the commands SLOT ASSIGN, SLOT FREE and
PLAN READ. -/

namespace Sys2Proof.Machine

open Sys2Proof

/-! ## Banks and tables -/

def Bank.other : Bank → Bank
  | .b0 => .b1
  | .b1 => .b0

/-- The table of a direction (R67). -/
def BankTables.table (b : BankTables) : Direction → SlotTable
  | .out => b.out
  | .inn => b.inn

def BankTables.setTable (b : BankTables) (d : Direction) (t : SlotTable) : BankTables :=
  match d with
  | .out => { b with out := t }
  | .inn => { b with inn := t }

def SlotPlan.bank (x : SlotPlan) : Bank → BankTables
  | .b0 => x.bank0
  | .b1 => x.bank1

def SlotPlan.setBank (x : SlotPlan) (b : Bank) (t : BankTables) : SlotPlan :=
  match b with
  | .b0 => { x with bank0 := t }
  | .b1 => { x with bank1 := t }

/-- The tables that govern the slots in use (R68). -/
def SlotPlan.activeTables (x : SlotPlan) : BankTables := x.bank x.active
/-- The tables the processors prepare (R70). -/
def SlotPlan.shadowTables (x : SlotPlan) : BankTables := x.bank x.active.other
/-- The table received frames are read against: the receive bank's inbound table (R69), and from a swap to
the next received frame-0 place that table as it stood before the swap (R93, R140). Log entry 30. -/
def SlotPlan.receiveTable (x : SlotPlan) : SlotTable := x.retained.getD (x.bank x.receive).inn

/-- The receive bank follows the active bank (R69): at a received frame-0 place, and on entry into DOWN. -/
def SlotPlan.followActive (x : SlotPlan) : SlotPlan := { x with receive := x.active, retained := none }

def SlotPlan.setShadow (x : SlotPlan) (t : BankTables) : SlotPlan := x.setBank x.active.other t

/-- A channel's slots in a table, in rising order (R67). -/
def slotsOf (t : SlotTable) (c : ChannelNo) : List SlotNo :=
  (List.finRange 24).filter fun i => t[i.val] == some c

/-- The number of a channel's slots in a table, its k (R75). -/
def slotCount (t : SlotTable) (c : ChannelNo) : Nat := (slotsOf t c).length

/-- A channel's lead slot in a table, its lowest-numbered slot there (R74). -/
def leadSlot (t : SlotTable) (c : ChannelNo) : Option SlotNo := (slotsOf t c).head?

/-- The table names the channel (R67). -/
def namesChannel (t : SlotTable) (c : ChannelNo) : Bool :=
  (List.finRange 24).any fun i => t[i.val] == some c

/-- The bank names the channel, in either table (R79, R119). -/
def BankTables.namesChannel (b : BankTables) (c : ChannelNo) : Bool :=
  Machine.namesChannel b.out c || Machine.namesChannel b.inn c

/-- A table with each entry passed through `f`. -/
def mapTable (f : Option ChannelNo → Option ChannelNo) (t : SlotTable) : SlotTable :=
  Vector.ofFn fun i => f t[i.val]

/-- A table with the entries that name a channel failing `keep` unassigned. -/
def keepEntries (keep : ChannelNo → Bool) (t : SlotTable) : SlotTable :=
  mapTable (fun e => match e with | some c => if keep c then some c else none | none => none) t

/-! ## The digest (R76) -/

/-- The sum of (L + 1) × (p + 1) over the used slots of one table, slot s at position `base` + s. -/
def tableDigest (t : SlotTable) (base : Nat) : Nat :=
  ((List.finRange 24).map fun i =>
    match t[i.val] with
    | some c => (((leadSlot t c).map Fin.val).getD 0 + 1) * (base + i.val + 1)
    | none => 0).sum

/-- The offer digest: outbound slot s at position s, inbound slot s at position 24 + s (R76). -/
def offerDigest (b : BankTables) : Word := BitVec.ofNat 16 (tableDigest b.out 0 + tableDigest b.inn 24)

/-- The answer digest: inbound slot s at position s, outbound slot s at position 24 + s (R76). -/
def answerDigest (b : BankTables) : Word := BitVec.ofNat 16 (tableDigest b.inn 0 + tableDigest b.out 24)

/-! ## The lock, the swap and the close -/

/-- An exchange is in flight: the shadow bank is locked (R70). -/
def Exchange.inFlight (x : Exchange) : Bool := x.state != .idle

/-- A bank adoption is pending (R70, R81). -/
def Exchange.adoptionPending (x : Exchange) : Bool := x.adopt.isSome

/-- The channel is in the pending-clear set (R79). -/
def SlotPlan.isPendingClear (x : SlotPlan) (c : ChannelNo) : Bool := x.pendingClear[c.val]

/-- The channels whose shadow entries the end of a lock keeps: open, and not pending clear (R80). -/
def keptAtLockEnd (s : State) (c : ChannelNo) : Bool :=
  (s.channel c).isOpen && !s.plan.isPendingClear c

/-- The empty pending-clear set. -/
def noPendingClear : Vector Bool 8 := Vector.replicate 8 false

/-- The clearing at the end of a lock without a swap (R80). -/
def lockEndClear (s : State) : State :=
  let sh := s.plan.shadowTables
  { s with plan :=
    { s.plan.setShadow ⟨keepEntries (keptAtLockEnd s) sh.out, keepEntries (keptAtLockEnd s) sh.inn⟩
      with pendingClear := noPendingClear } }

/-- The entries of the new active bank that a swap copies into the new shadow, for one direction's
table (R78, step 2). -/
def copiedAtSwap (s : State) (d : Direction) (c : ChannelNo) : Bool :=
  keptAtLockEnd s c && (s.channel c).direction == some d

/-- The swap of the banks: steps 1 to 3 of R78. The bank rebuilt here is at the Clock end still the receive
bank until the next received frame-0 place (R69); the frames read before that place are the peer's under the
old plan (R93, R140), so their inbound table is retained for them. DEDUCED, log entry 30. -/
def swapBanks (s : State) : State :=
  let now := s.plan.shadowTables
  let copy : BankTables :=
    ⟨keepEntries (copiedAtSwap s .out) now.out, keepEntries (copiedAtSwap s .inn) now.inn⟩
  { s with plan :=
    { s.plan.setBank s.plan.active copy with
      active := s.plan.active.other
      retained := some s.plan.receiveTable
      pendingClear := noPendingClear } }

/-- A channel's slots in the active bank's table of a direction (R75, R114). -/
def activeSlots (s : State) (d : Direction) (c : ChannelNo) : Nat :=
  slotCount (s.plan.activeTables.table d) c

/-- A channel's area suffices for two units of its slots in the active bank's table of its direction:
at least 8k bytes (R75, R125, R140). -/
def areaSuffices (s : State) (c : ChannelNo) : Bool :=
  match (s.channel c).direction, (s.channel c).area with
  | some d, some a => 8 * activeSlots s d c ≤ (s.area a).size
  | _, _ => true

/-- The check of one channel at a swap or an adoption (R140). -/
def checkArea (s : State) (c : ChannelNo) : State :=
  if (s.channel c).isOpen && !areaSuffices s c then
    if (s.channel c).hasCurrent then endAndHalt s c .areaSmall .areaSmall
    else haltChannel s c .areaSmall
  else s

/-- The checks of the channels against the new capacities, in the order of the step (R140). -/
def checkAreas (order : ChannelOrder) (s : State) : State :=
  (channelOrder order).foldl checkArea s

/-- The slot plan's side of a close (R79). -/
def closeInPlan (s : State) (c : ChannelNo) : State :=
  if s.exchange.inFlight then
    { s with plan := { s.plan with pendingClear := s.plan.pendingClear.set c.val true } }
  else
    let sh := s.plan.shadowTables
    { s with plan := s.plan.setShadow ⟨keepEntries (· != c) sh.out, keepEntries (· != c) sh.inn⟩ }

/-- The area's side of a close: FREE, its holder, blocks, positions and fill kept (R108). -/
def unbindArea (s : State) (a : Option AreaNo) : State :=
  match a with
  | some n => s.setArea n { s.area n with state := .free, channel := none }
  | none => s

/-- Steps 2 to 5 of a close (R120), for a queue already ended or to be discarded. -/
def closeRecord (s : State) (c : ChannelNo) : State :=
  (closeInPlan (unbindArea (leaveIfWaiting s c) (s.channel c).area) c).setChannel c Channel.closed

/-- A close by CLOSE: the orders end ABORTED, then the record closes (R120). A WAITING head leaves its
waiter list first, so that its order still tells the cell; one step either way. -/
def closeChannelOp (s : State) (c : ChannelNo) : State :=
  let s := leaveIfWaiting s c
  closeRecord (abortOrders c (s.channel c).queue s) c

/-- A close by PORT RESET: the orders are discarded without outcome (R121). -/
def discardChannel (s : State) (c : ChannelNo) : State :=
  match (s.channel c).owner with
  | some p =>
    let n := (s.channel c).queue.length
    closeRecord (s.setPort p { s.port p with orderCount := (s.port p).orderCount - n }) c
  | none => closeRecord s c

/-! ## The commands -/

/-- The refusal of a shadow edit while a bank may go live (R70). -/
def editBusy (s : State) : Bool := s.exchange.inFlight || s.exchange.adoptionPending

/-- The result of SLOT ASSIGN and SLOT FREE: the channel's slot count in the shadow table and its
lead slot there (R71, R72). -/
def slotResult (s : State) (d : Direction) (c : ChannelNo) : List Byte :=
  let t := s.plan.shadowTables.table d
  [byteOf (slotCount t c), numberField (leadSlot t c)]

/-- One shadow entry written. -/
def setShadowEntry (s : State) (d : Direction) (i : SlotNo) (e : Option ChannelNo) : State :=
  let sh := s.plan.shadowTables
  { s with plan := s.plan.setShadow (sh.setTable d ((sh.table d).set i.val e)) }

def State.shadowEntry (s : State) (d : Direction) (i : SlotNo) : Option ChannelNo :=
  (s.plan.shadowTables.table d)[i.val]

/-- SLOT ASSIGN's checks and effect (R71). -/
def slotAssign (p : Port) (s : State) : Reply × State :=
  match direction? (param (s.port p) 0), slot? (param (s.port p) 1), channel? (param (s.port p) 2) with
  | some d, some i, some c =>
    if editBusy s then (.refuse .planBusy, s)
    else if (s.channel c).owner ≠ some p then (.refuse .notOwner, s)
    else if (s.channel c).direction ≠ some d then (.refuse .badParam, s)
    else if (s.shadowEntry d i).isSome then (.refuse .inUse, s)
    else
      let s := setShadowEntry s d i (some c)
      (.done (slotResult s d c), s)
  | _, _, _ => (.refuse .badParam, s)

/-- SLOT ASSIGN. -/
def execSlotAssign (p : Port) (s : State) : Host.Outcome State Fault Refusal :=
  takeCommand (engineTakes s p 0x20#8) p (slotAssign p) s

/-- SLOT FREE's checks and effect (R72). -/
def slotFree (p : Port) (s : State) : Reply × State :=
  match direction? (param (s.port p) 0), slot? (param (s.port p) 1) with
  | some d, some i =>
    if editBusy s then (.refuse .planBusy, s)
    else
      match s.shadowEntry d i with
      | none => (.refuse .state, s)
      | some c =>
        if (s.channel c).owner ≠ some p then (.refuse .notOwner, s)
        else
          let s := setShadowEntry s d i none
          (.done (slotResult s d c), s)
  | _, _ => (.refuse .badParam, s)

/-- SLOT FREE. -/
def execSlotFree (p : Port) (s : State) : Host.Outcome State Fault Refusal :=
  takeCommand (engineTakes s p 0x21#8) p (slotFree p) s

/-- The bank PLAN READ's parameter names (R73, R174). -/
def readBank? (s : State) (b : Byte) : Option Bank :=
  if b = 0#8 then some .b0 else if b = 1#8 then some .b1
  else if b = 2#8 then some s.plan.active else if b = 3#8 then some s.plan.active.other else none

/-- A slot byte of PLAN READ: the outbound entry in the low four bits, the inbound entry in the high
four, 0xF for unassigned (R175). -/
def slotByte (b : BankTables) (i : SlotNo) : Byte :=
  let entry : Option ChannelNo → Nat := fun e => (e.map Fin.val).getD 15
  byteOf (entry b.out[i.val] + 16 * entry b.inn[i.val])

/-- PLAN READ (R73). -/
def planRead (p : Port) (s : State) : Reply × State :=
  match readBank? s (param (s.port p) 0) with
  | some b => (.done ((List.finRange 24).map (slotByte (s.plan.bank b))), s)
  | none => (.refuse .badParam, s)

/-- PLAN READ. -/
def execPlanRead (p : Port) (s : State) : Host.Outcome State Fault Refusal :=
  takeCommand (engineTakes s p 0x22#8) p (planRead p) s

end Sys2Proof.Machine
end

