-- ==== Sys2Proof/Machine/Channels.lean ====
section
/-! DEFINITION. The channel table: the channel commands (R118 to R126), TAKE COMPLETION (R164), the
outbound units and the loop pause of a frame start (R128 to R131), the delivery of inbound units
(R133 to R137) and the entry into DOWN (R141). -/

namespace Sys2Proof.Machine

open Sys2Proof

/-! ## Opening and closing -/

/-- A port's order room: 16 minus its order count minus the records in its queue (R117, R122). -/
def PortState.orderRoom (q : PortState) : Nat := 16 - q.orderCount - q.completions.length

def Direction.other : Direction → Direction
  | .out => .inn
  | .inn => .out

/-- A newly opened channel (R118). -/
def Channel.opened (p : Port) (d : Direction) (a : AreaNo) : Channel :=
  ⟨.idle, some p, some d, some a, [], none, false⟩

/-- The area's side of OPEN: BOUND to the channel, positions and fill kept (R108). -/
def bindArea (s : State) (n : AreaNo) (c : ChannelNo) : State :=
  s.setArea n { s.area n with state := .bound, channel := some c }

/-- OPEN's results, from the active bank (R118, R175). -/
def openResult (s : State) (d : Direction) (c : ChannelNo) : List Byte :=
  let t := s.plan.activeTables
  let k := slotCount (t.table d) c
  [byteOf k, numberField (leadSlot (t.table d) c), byteOf (4 * k), byteOf (slotCount (t.table d.other) c)]

/-- OPEN's checks and effect (R118). -/
def openChannel (p : Port) (s : State) : Reply × State :=
  match channel? (param (s.port p) 0), direction? (param (s.port p) 1), area? (param (s.port p) 2) with
  | some c, some d, some n =>
    if (s.channel c).isOpen then (.refuse .owned, s)
    else if (s.area n).state = .undefined then (.refuse .areaUndefined, s)
    else if (s.area n).holder ≠ some p then (.refuse .heldElsewhere, s)
    else if (s.area n).state ≠ .free then (.refuse .areaBound, s)
    else if (s.area n).size < 8 * activeSlots s d c then (.refuse .areaSmall, s)
    else (.done (openResult s d c), bindArea (s.setChannel c (Channel.opened p d n)) n c)
  | _, _, _ => (.refuse .badParam, s)

/-- OPEN. -/
def execOpenChannel (p : Port) (s : State) : Host.Outcome State Fault Refusal :=
  takeCommand (engineTakes s p 0x40#8) p (openChannel p) s

/-- A command on a channel the issuing port owns: the three checks that CLOSE, POST ORDER, ABORT and
RESUME make alike (R119, R122, R124, R125). `valid` stands for the command's other parameters, which
share the first check. -/
def onOwnChannel (p : Port) (valid : Bool) (act : ChannelNo → State → Reply × State) (s : State) :
    Reply × State :=
  match channel? (param (s.port p) 0) with
  | none => (.refuse .badParam, s)
  | some c =>
    if !valid then (.refuse .badParam, s)
    else if !(s.channel c).isOpen then (.refuse .state, s)
    else if (s.channel c).owner ≠ some p then (.refuse .notOwner, s)
    else act c s

/-- The close would change a shadow bank that may go live (R119). -/
def closeBusy (s : State) (c : ChannelNo) : Bool :=
  (s.exchange.inFlight || s.exchange.adoptionPending) && s.plan.shadowTables.namesChannel c

/-- CLOSE's last check and effect (R119, R120). -/
def closeOwn (c : ChannelNo) (s : State) : Reply × State :=
  if closeBusy s c then (.refuse .planBusy, s)
  else (.done [byteOf (s.channel c).queue.length], closeChannelOp s c)

/-- CLOSE. -/
def execCloseChannel (p : Port) (s : State) : Host.Outcome State Fault Refusal :=
  takeCommand (engineTakes s p 0x41#8) p (onOwnChannel p true closeOwn) s

/-! ## Orders -/

/-- The gate cell and the completion cell of POST ORDER, when both are in range (R122, R174). -/
def postCells (q : PortState) : Option (Option CellNo × Option CellNo) :=
  match optionalCell? (param q 4), optionalCell? (param q 5) with
  | some g, some k => some (g, k)
  | _, _ => none

/-- An order appended at the tail of a channel's queue, its port's order count one higher (R122). -/
def appendOrder (p : Port) (c : ChannelNo) (o : Order) (s : State) : State :=
  (s.setChannel c { s.channel c with queue := (s.channel c).queue ++ [o] }).setPort p
    { s.port p with orderCount := (s.port p).orderCount + 1 }

/-- POST ORDER's last checks and effect (R122). -/
def postOwn (p : Port) (o : Order) (c : ChannelNo) (s : State) : Reply × State :=
  if 4 ≤ (s.channel c).queue.length then (.refuse .queueFull, s)
  else if 16 ≤ (s.port p).orderCount + (s.port p).completions.length then (.refuse .noRoom, s)
  else
    let posted := appendOrder p c o s
    let t := if (s.channel c).state = .idle then becomeCurrent posted c else posted
    (.done [byteOf ((s.channel c).queue.length + 1), byteOf (posted.port p).orderRoom], t)

/-- POST ORDER's checks and effect (R122). -/
def postOrder (p : Port) (s : State) : Reply × State :=
  let count := (param16 (s.port p) 2).toNat
  match postCells (s.port p) with
  | some (gate, completion) =>
    onOwnChannel p (1 ≤ count) (postOwn p ⟨param (s.port p) 1, count, 0, gate, completion⟩) s
  | none => (.refuse .badParam, s)

/-- POST ORDER. -/
def execPostOrder (p : Port) (s : State) : Host.Outcome State Fault Refusal :=
  takeCommand (engineTakes s p 0x42#8) p (postOrder p) s

/-- The engine takes an ABORT command that stands for the row of one scope: its scope byte is that
scope's, or names no scope at all, which both ABORT rows refuse alike (R174; log entry 8). -/
def takesAbort (s : State) (p : Port) (scope : Byte) : Bool :=
  engineTakes s p 0x43#8 && (param (s.port p) 1 == scope || 2 ≤ (param (s.port p) 1).toNat)

/-- ABORT with scope CURRENT (R124). -/
def abortCurrentOwn (c : ChannelNo) (s : State) : Reply × State :=
  if (s.channel c).hasCurrent then (.done [1#8], endAndAdvance (leaveIfWaiting s c) c .aborted)
  else (.refuse .state, s)

/-- ABORT, scope CURRENT. -/
def execAbortCurrent (p : Port) (s : State) : Host.Outcome State Fault Refusal :=
  takeCommand (takesAbort s p 0#8) p (onOwnChannel p (param (s.port p) 1 == 0#8) abortCurrentOwn) s

/-- ABORT with scope ALL: every order ends ABORTED and none becomes current; the channel is IDLE,
unless it is HALTED and stays so (R124). -/
def abortAllOwn (c : ChannelNo) (s : State) : Reply × State :=
  let left := leaveIfWaiting s c
  let t := abortOrders c (left.channel c).queue left
  (.done [byteOf (s.channel c).queue.length],
    if (s.channel c).state = .halted then t else t.setChannelState c .idle)

/-- ABORT, scope ALL. -/
def execAbortAll (p : Port) (s : State) : Host.Outcome State Fault Refusal :=
  takeCommand (takesAbort s p 1#8) p (onOwnChannel p (param (s.port p) 1 == 1#8) abortAllOwn) s

/-- RESUME's last checks and effect (R125). -/
def resumeOwn (c : ChannelNo) (s : State) : Reply × State :=
  if (s.channel c).state ≠ .halted then (.refuse .state, s)
  else if !areaSuffices s c then (.refuse .areaSmall, s)
  else
    let t := becomeCurrent (s.setChannel c { s.channel c with halt := none }) c
    (.done [channelStateField (t.channel c).state], t)

/-- RESUME. -/
def execResume (p : Port) (s : State) : Host.Outcome State Fault Refusal :=
  takeCommand (engineTakes s p 0x44#8) p (onOwnChannel p true resumeOwn) s

/-! ## CHANNEL STATUS and TAKE COMPLETION -/

/-- Bytes 6 to 8 of CHANNEL STATUS: k, lead slot and capacity in the active bank's table of the
channel's direction. A CLOSED channel has no direction, so its three bytes are free (log entry 2). -/
def statusSlotBytes (s : State) (c : ChannelNo) : List Byte :=
  match (s.channel c).direction with
  | some d =>
    let t := s.plan.activeTables.table d
    [byteOf (slotCount t c), numberField (leadSlot t c), byteOf (4 * slotCount t c)]
  | none =>
    [Config.freeByte s.freeNext, Config.freeByte (s.freeNext + 1), Config.freeByte (s.freeNext + 2)]

/-- The free bytes a CHANNEL STATUS draws (log entry 2). -/
def statusDraws (s : State) (c : ChannelNo) : State :=
  if (s.channel c).direction.isNone then { s with freeNext := s.freeNext + 3 } else s

/-- Bytes 10 to 16: the head order's fields, 0x00 when the queue is empty (R175). -/
def headBytes (queue : List Order) : List Byte :=
  match queue with
  | [] => [0#8, 0#8, 0#8, 0#8, 0#8, 0#8, 0#8]
  | o :: _ =>
    [o.tag] ++ fieldNat o.count ++ fieldNat o.moved ++ [numberField o.gate, numberField o.completionCell]

/-- The CHANNEL STATUS result (R126, R175). -/
def channelStatusResult (s : State) (c : ChannelNo) : List Byte :=
  let x := s.channel c
  [channelStateField x.state, portField x.owner, directionField x.direction, numberField x.area,
    haltField x.halt, flagField x.loopPause]
    ++ statusSlotBytes s c ++ [byteOf x.queue.length] ++ headBytes x.queue
    ++ x.queue.tail.map Order.tag

/-- CHANNEL STATUS (R126). -/
def channelStatus (p : Port) (s : State) : Reply × State :=
  match channel? (param (s.port p) 0) with
  | none => (.refuse .badParam, s)
  | some c => (.done (channelStatusResult s c), statusDraws s c)

/-- CHANNEL STATUS. -/
def execChannelStatus (p : Port) (s : State) : Host.Outcome State Fault Refusal :=
  takeCommand (engineTakes s p 0x45#8) p (channelStatus p) s

/-- The completion record as TAKE COMPLETION carries it (R176). -/
def completionBytes (r : CompletionRecord) : List Byte :=
  [byteOf r.channel.val, r.tag, outcomeField r.outcome] ++ fieldNat r.moved ++ [r.cycle]

/-- TAKE COMPLETION (R164, R176). -/
def takeCompletion (p : Port) (s : State) : Reply × State :=
  let q := s.port p
  match q.completions with
  | [] => (.empty [0#8, 0#8, 0#8, 0#8, 0#8, 0#8, 0#8, byteOf q.orderRoom], s)
  | r :: rest =>
    let q := { q with completions := rest }
    (.done (completionBytes r ++ [byteOf rest.length, byteOf q.orderRoom]), s.setPort p q)

/-- TAKE COMPLETION. -/
def execTakeCompletion (p : Port) (s : State) : Host.Outcome State Fault Refusal :=
  takeCommand (engineTakes s p 0x46#8) p (takeCompletion p) s

/-! ## The start of an outbound frame -/

/-- One or more of the channel's slots in the active outbound table are in the loop set (R131). -/
def loopTouches (s : State) (c : ChannelNo) : Bool :=
  (slotsOf s.plan.activeTables.out c).any fun i => s.service.loopSet[i.val]

/-- A channel's loop pause flag given a value, LOOPED raised on the owner when it changes (R131). -/
def setLoopPause (s : State) (c : ChannelNo) (b : Bool) : State :=
  if (s.channel c).loopPause = b then s
  else (s.setChannel c { s.channel c with loopPause := b }).raiseOwner (s.channel c).owner .looped

/-- The loop pause of one channel at a frame start: every open OUT channel (R131). -/
def updateLoopPause (s : State) (c : ChannelNo) : State :=
  if (s.channel c).direction = some .out then setLoopPause s c (loopTouches s c) else s

/-- The loop pauses of a frame start (R131). -/
def updateLoopPauses (s : State) : State := (List.finRange 8).foldl updateLoopPause s

/-- The conditions under which an OUT channel forms a unit (R129). -/
def formsUnit (s : State) (c : ChannelNo) : Bool :=
  s.link.state == .up && !s.exchange.mismatch && (s.channel c).direction == some .out
    && (s.channel c).state == .active && namesChannel s.plan.activeTables.out c && !loopTouches s c

/-- The head order of a channel with `n` more bytes moved (R116). -/
def moveHead (s : State) (c : ChannelNo) (n : Nat) : State :=
  match (s.channel c).queue with
  | [] => s
  | o :: rest => s.setChannel c { s.channel c with queue := { o with moved := o.moved + n } :: rest }

/-- The unit's count: the least of 4k − 1, the fill level and the remaining count (R129). -/
def unitCount (s : State) (c : ChannelNo) (a : AreaNo) (o : Order) : Nat :=
  min (4 * slotCount s.plan.activeTables.out c - 1) (min (s.area a).fill o.remaining)

/-- The unit an ACTIVE OUT channel forms from its area for its current order: its bytes, header first,
and the state after it. With n above 0 and nothing remaining, END is set and the order ends DONE
(R129). -/
def takeUnit (s : State) (c : ChannelNo) (a : AreaNo) (o : Order) : List Byte × State :=
  let n := unitCount s c a o
  let taken := ringTake a n s
  let moved := moveHead taken.2 c n
  let ends := 0 < n && o.remaining == n
  (unitHeader n ends :: taken.1, if ends then endAndAdvance moved c .done else moved)

/-- One channel's step of a frame start. A channel that forms no unit supplies a unit of count 0, all
of whose bytes are 0x00, written here as no bytes (R128, R129). -/
def formUnit (s : State) (c : ChannelNo) : List Byte × State :=
  if formsUnit s c then
    match (s.channel c).area, (s.channel c).queue with
    | some a, o :: _ => takeUnit s c a o
    | _, _ => ([], s)
  else ([], s)

/-- The bytes of the eight channels' units in one frame. -/
abbrev FrameUnits := Vector (List Byte) 8

/-- The channels' steps of a frame start, one after another (R129, R132). -/
def formUnits : List ChannelNo → FrameUnits × State → FrameUnits × State
  | [], r => r
  | c :: cs, r =>
    let u := formUnit r.2 c
    formUnits cs (r.1.set c.val u.1, u.2)

/-- How many of the channel's slots lie before slot `i` in a table. -/
def slotIndex (t : SlotTable) (c : ChannelNo) (i : SlotNo) : Nat :=
  ((slotsOf t c).filter (· < i)).length

/-- Byte `j` of slot `i` as the channel table supplies it: the unit's bytes run through the channel's
slots in rising order, four to a slot, the header first; 0x00 beyond them and in an unassigned slot
(R3, R74, R128). -/
def suppliedByte (t : SlotTable) (units : FrameUnits) (i : SlotNo) (j : Nat) : Byte :=
  match t[i.val] with
  | some c => units[c.val].getD (4 * slotIndex t c i + j) 0#8
  | none => 0#8

/-! ## The delivery of a received frame -/

/-- The four bytes of a slot of a payload (R182). -/
def slotBytes (payload : Payload) (i : SlotNo) : List Byte :=
  [payload[4 * i.val], payload[4 * i.val + 1], payload[4 * i.val + 2], payload[4 * i.val + 3]]

/-- The bytes in a channel's slots, in rising slot order: its unit, header first (R74). -/
def unitBytes (t : SlotTable) (payload : Payload) (c : ChannelNo) : List Byte :=
  (slotsOf t c).flatMap (slotBytes payload)

/-- Unit bytes delivered to the channel's orders (R134 to R137). Each round serves one order: its share
is appended, or the order ends OVERRUN; an order filled ends DONE and the rest goes to the next; an
order still short ends SHORT at an END mark. Bytes that find no ACTIVE order are unclaimed. `fuel` is
above the number of orders in the queue. -/
def deliverBytes (c : ChannelNo) (endMark : Bool) : Nat → List Byte → State → State
  | 0, _, s => s
  | fuel + 1, data, s =>
    match (s.channel c).state, (s.channel c).area, (s.channel c).queue with
    | .active, some a, o :: _ =>
      let share := min data.length o.remaining
      let free := (s.area a).free
      if free < share then
        endAndHalt (moveHead (ringAppendAll a (data.take free) s) c free) c .overrun .overrun
      else
        let s := moveHead (ringAppendAll a (data.take share) s) c share
        if o.remaining = share then
          let s := endAndAdvance s c .done
          if (data.drop share).isEmpty then s else deliverBytes c endMark fuel (data.drop share) s
        else if endMark then endAndAdvance s c .short
        else s
    | _, _, _ => if data.isEmpty then s else s.raiseOwner (s.channel c).owner .unclaimed

/-- A unit of a received frame, for an IN channel with slots in the receive bank's inbound table: a bad
unit when its count is above 4k − 1, else its data bytes delivered (R133, R181). -/
def deliverUnit (s : State) (c : ChannelNo) (bytes : List Byte) : State :=
  match bytes with
  | [] => s
  | header :: data =>
    let count := headerCount header
    if data.length < count then s.raiseOwner (s.channel c).owner .badUnit
    else
      deliverBytes c (headerEnd header) ((s.channel c).queue.length + 1) (data.take count) s

/-- One channel's delivery (R133): inbound slots of an OUT or CLOSED channel are not read. -/
def deliverChannel (payload : Payload) (s : State) (c : ChannelNo) : State :=
  if (s.channel c).direction = some .inn then
    deliverUnit s c (unitBytes s.plan.receiveTable payload c)
  else s

/-- A received frame handed over: units are read in UP with no mismatch in force (R133, R138). -/
def deliverFrame (order : ChannelOrder) (payload : Payload) (s : State) : State :=
  if s.link.state = .up && !s.exchange.mismatch then
    (channelOrder order).foldl (deliverChannel payload) s
  else s

/-! ## Entry into DOWN -/

/-- One channel at an entry into DOWN: a current order ends LINK_LOST and the channel halts; a loop
pause is cleared with LOOPED (R131, R141). -/
def channelDown (s : State) (c : ChannelNo) : State :=
  let s := if (s.channel c).hasCurrent then endAndHalt s c .linkLost .linkLost else s
  setLoopPause s c false

/-- The channel table at an entry into DOWN (R141). -/
def channelsDown (order : ChannelOrder) (s : State) : State := (channelOrder order).foldl channelDown s

end Sys2Proof.Machine
end

