-- ==== Sys2Proof/Machine/Exchange.lean ====
section
/-! DEFINITION. The plan exchange: how an exchange ends (R82), offers and withdrawals (R83 to R85), the
peer's plan messages (R86 to R92), the switch (R93), the bank mismatch (R95 to R98), entry into DOWN
(R99) and the commands PLAN SWITCH, PLAN WITHDRAW and PLAN STATUS. The answer place stands here too,
since a displaced answer is reported to the exchange (R48, R88). -/

namespace Sys2Proof.Machine

open Sys2Proof

/-- A plan message to PEER (R44). -/
def planMessage (code : Byte) (argument : Word) : Message := ⟨0#4, .order, code, argument⟩

/-- The entry is this end's PLAN OFFER (R50). -/
def OriginEntry.isOffer (e : OriginEntry) : Bool :=
  e.fromPlan && e.message.kind == .order && e.message.code == codePlanOffer

/-- This end's PLAN OFFER is still in the origin queue (R50). -/
def offerQueued (s : State) : Bool := s.service.origin.any OriginEntry.isOffer

/-- A message of the plan exchange appended to the origin queue while it holds fewer than 4 (R49). -/
def appendPlan (s : State) (m : Message) : State :=
  if s.service.origin.length < 4 then
    { s with service := { s.service with origin := s.service.origin ++ [⟨m, true⟩] } }
  else s

/-- The youngest entry that `f` names taken out of a list. -/
def eraseYoungest {α : Type} (f : α → Bool) (l : List α) : List α := (l.reverse.eraseP f).reverse

/-- The PLAN OFFER of the exchange in OFFERED taken out of the origin queue (R50, R82). It is the youngest
offer there: a later one needs a later PLAN SWITCH, and an older one, of an exchange that a stale AGREE
scheduled, stands before it and is not this exchange's. -/
def removeOffer (s : State) : State :=
  { s with service := { s.service with
      origin := eraseYoungest OriginEntry.isOffer s.service.origin } }

/-- The last plan outcome written, and PLAN raised to all ports (R82). -/
def writeOutcome (s : State) (kind : PlanOutcomeKind) (reason : Option RefusalReason)
    (requester : Option Requester) : State :=
  ({ s with exchange := { s.exchange with
      last := some ⟨kind, reason, requester, s.framer.cycle⟩ } }).raiseAll .plan

/-- The exchange's items back to IDLE's (R82). -/
def Exchange.toIdle (x : Exchange) : Exchange :=
  { x with
    state := .idle, requester := none, side := none, offered := none, target := none, count := 0 }

/-- An exchange in flight ends (R82): back to IDLE, a queued offer removed, the outcome written, the
lock ended with its clearing when no swap was made (R80), PLAN raised. -/
def endExchange (s : State) (kind : PlanOutcomeKind) (reason : Option RefusalReason) (swapped : Bool) :
    State :=
  let requester := s.exchange.requester
  let s := if s.exchange.state = .offered then removeOffer s else s
  let s := { s with exchange := s.exchange.toIdle }
  let s := if swapped then s else lockEndClear s
  writeOutcome s kind reason requester

/-- Entry into SCHEDULED raises PLAN to all ports (R82). -/
def enterScheduled (s : State) (side : Side) (requester : Option Requester) (target : Option Byte) :
    State :=
  ({ s with exchange := { s.exchange with
      state := .scheduled, side := some side, requester := requester, target := target } }).raiseAll .plan

/-- A withdrawal under R50: a PLAN WITHDRAW is appended unless this end's offer is still queued, in
which case the end of the exchange removes the offer. -/
def sendWithdraw (s : State) : State :=
  if offerQueued s then s else appendPlan s (planMessage codePlanWithdraw 0#16)

/-! ## The answer place (R48, R88) -/

/-- The exchange is SCHEDULED as agreer with T absent: its AGREE has not been sent (R87, R88). -/
def Exchange.agreeUnsent (x : Exchange) : Bool :=
  x.state == .scheduled && x.side == some .agreer && x.target.isNone

/-- The plan exchange's response to a displaced answer (R88). -/
def answerDisplaced (s : State) (old : Answer) : State :=
  if old.source = .plan && old.message.code = codePlanAgree && s.exchange.agreeUnsent then
    endExchange s .withdrawn none false
  else s

/-- A message written to the answer place, replacing any unsent one there (R48). -/
def writeAnswer (s : State) (m : Message) (source : AnswerSource) : State :=
  let s' := { s with service := { s.service with answer := some ⟨m, source⟩ } }
  match s.service.answer with
  | some old => answerDisplaced s' old
  | none => s'

/-- PLAN REFUSE to PEER with a reason, to the answer place (R86, R89). -/
def refuseOffer (s : State) (reason : RefusalReason) : State :=
  writeAnswer s (planMessage codePlanRefuse (refusalArgument reason)) .plan

/-! ## The peer's plan messages -/

/-- A confirmed PLAN OFFER handled as in IDLE (R86). -/
def offerInIdle (s : State) (digest : Word) : State :=
  if s.link.state ≠ .up || s.exchange.mismatch || s.exchange.adoptionPending then refuseOffer s .busy
  else
    let own := answerDigest s.plan.shadowTables
    let s := { s with exchange := { s.exchange with answer := some own, peerOffer := some digest } }
    if own = digest then
      enterScheduled (writeAnswer s (planMessage codePlanAgree 0#16) .plan) .agreer (some .peer) none
    else refuseOffer s .pattern

/-- A confirmed PLAN OFFER (R86, R89). -/
def offerReceived (s : State) (digest : Word) : State :=
  match s.exchange.state with
  | .idle => offerInIdle s digest
  | .scheduled => refuseOffer s .busy
  | .offered =>
    if s.framer.role = .clock then refuseOffer s .busy
    else offerInIdle (endExchange s .collided none false) digest

/-- A confirmed PLAN AGREE (R90, R91): in OFFERED the distance to T decides. -/
def agreeReceived (s : State) (argument : Word) : State :=
  if s.exchange.state = .offered then
    let t : Byte := argument.setWidth 8
    let distance := (t - s.framer.cycle).toNat
    if argument.toNat ≤ 255 && 3 ≤ distance && distance ≤ 16 then
      enterScheduled s .offerer s.exchange.requester (some t)
    else endExchange (sendWithdraw s) .late none false
  else s

/-- A confirmed PLAN REFUSE (R91): BUSY for an argument that is neither code. -/
def refuseReceived (s : State) (argument : Word) : State :=
  if s.exchange.state = .offered then
    endExchange s .refused (some (if argument = refusalArgument .pattern then .pattern else .busy)) false
  else s

/-- A confirmed PLAN WITHDRAW (R92): it ends an agreer's schedule and is disregarded otherwise. -/
def withdrawReceived (s : State) : State :=
  if s.exchange.state = .scheduled && s.exchange.side = some .agreer then
    endExchange s .withdrawn none false
  else s

/-- A confirmed message with a plan code, handed to the plan exchange (R50, R55). -/
def planReceived (s : State) (m : Message) : State :=
  if m.code = codePlanOffer then offerReceived s m.argument
  else if m.code = codePlanAgree then agreeReceived s m.argument
  else if m.code = codePlanRefuse then refuseReceived s m.argument
  else withdrawReceived s

/-! ## The target cycle (R87) -/

/-- T as the AGREE enters the transmit slot in cycle c: c + 16, modulo 256 (R87). -/
def agreeTarget (s : State) : Byte := s.framer.cycle + 16#8

/-- The entry of an AGREE reported to the plan exchange: T is fixed when it is still to be fixed (R87). -/
def agreeEntered (s : State) : State :=
  if s.exchange.agreeUnsent then
    { s with exchange := { s.exchange with target := some (agreeTarget s) } }
  else s

/-! ## At a cycle start (R85, R93, R97) -/

/-- The OFFERED count has reached 48 (R85). -/
def timeoutDue (s : State) : Bool := s.exchange.state == .offered && 48 ≤ s.exchange.count

/-- The timeout: withdraw, and end with TIMEOUT (R85). -/
def planTimeoutOp (s : State) : State := endExchange (sendWithdraw s) .timeout none false

/-- The swap falls due: SCHEDULED with T fixed, the distance to T 0 or greater than 16 (R93). -/
def swapDue (s : State) : Bool :=
  s.exchange.state == .scheduled &&
    match s.exchange.target with
    | some t =>
      let distance := (t - s.framer.cycle).toNat
      distance == 0 || 16 < distance
    | none => false

/-- SWITCHED for the offerer, PEER_SWITCHED for the agreer (R93). -/
def switchedKind (x : Exchange) : PlanOutcomeKind :=
  if x.side = some .agreer then .peerSwitched else .switched

/-- The switch: the swap with the channel checks, then the end of the exchange (R93). -/
def planSwapOp (order : ChannelOrder) (s : State) : State :=
  endExchange (checkAreas order (swapBanks s)) (switchedKind s.exchange) none true

/-- An adoption is pending at the Follow end (R97). -/
def adoptionDue (s : State) : Bool := s.framer.role == .follow && s.exchange.adoptionPending

/-- The adoption: a swap when the active bank is not yet the bank to adopt, the channel checks either
way (R140), ADOPTED written with requester PEER, and adoption pending cleared (R97). -/
def bankAdoptionOp (order : ChannelOrder) (s : State) : State :=
  let swapped := if s.exchange.adopt = some s.plan.active then s else swapBanks s
  let s := writeOutcome (checkAreas order swapped) .adopted none (some .peer)
  { s with exchange := { s.exchange with adopt := none } }

/-! ## The bank mismatch (R95 to R98) -/

/-- The two flags of BANK as banks (R8). -/
def bankOfFlag (b : Bool) : Bank := if b then .b1 else .b0

/-- A mismatch is confirmed by a status field carrying `bank` (R96). -/
def confirmMismatch (s : State) (bank : Bank) : State :=
  let s := { s with exchange := { s.exchange with mismatch := true } }
  let s := if s.exchange.inFlight then endExchange s .mismatch none false
    else writeOutcome s .mismatch none (some .peer)
  if s.framer.role = .follow then { s with exchange := { s.exchange with adopt := some bank } } else s

/-- The BANK of a status field that takes effect in UP, against the reference bank of its cycle
(R95, R98). -/
def compareBank (s : State) (bank reference : Bank) : State :=
  if bank = reference then
    { s with exchange := { s.exchange with mismatchRun := 0, mismatch := false } }
  else
    let run := s.exchange.mismatchRun
    let s := { s with exchange := { s.exchange with mismatchRun := min 2 (run + 1) } }
    if run = 1 then confirmMismatch s bank else s

/-- Any exit of the link from UP sets the mismatch run to 0 (R95). -/
def clearMismatchRun (s : State) : State :=
  { s with exchange := { s.exchange with mismatchRun := 0 } }

/-- The plan exchange at an entry into DOWN (R99). -/
def exchangeDown (s : State) : State :=
  let s := if s.exchange.inFlight then endExchange s .linkLost none false else s
  { s with exchange := { s.exchange with mismatch := false, adopt := none, mismatchRun := 0 } }

/-! ## The commands -/

/-- PLAN SWITCH's checks and effect (R83). -/
def planSwitch (p : Port) (s : State) : Reply × State :=
  if s.link.state ≠ .up then (.refuse .linkDown, s)
  else if s.exchange.inFlight || s.exchange.mismatch || s.exchange.adoptionPending then
    (.refuse .planBusy, s)
  else if 4 ≤ s.service.origin.length then (.refuse .svcFull, s)
  else
    let digest := offerDigest s.plan.shadowTables
    let s := appendPlan s (planMessage codePlanOffer digest)
    (.done (field16 digest),
      { s with exchange := { s.exchange with
          offered := some digest, requester := some (.port p), count := 0, state := .offered } })

/-- PLAN SWITCH. -/
def execPlanSwitch (p : Port) (s : State) : Host.Outcome State Fault Refusal :=
  takeCommand (engineTakes s p 0x23#8) p (planSwitch p) s

/-- PLAN WITHDRAW's effect by the exchange state (R84). -/
def planWithdraw (s : State) : Reply × State :=
  match s.exchange.state with
  | .offered => (.done [], endExchange (sendWithdraw s) .withdrawn none false)
  | .idle => (.refuse .state, s)
  | .scheduled => (.refuse .planBusy, s)

/-- PLAN WITHDRAW. -/
def execPlanWithdraw (p : Port) (s : State) : Host.Outcome State Fault Refusal :=
  takeCommand (engineTakes s p 0x24#8) p planWithdraw s

/-- One bit of a mark byte (R174, R175). -/
def markBit (n : Nat) (absent : Bool) : Byte := if absent then 1#8 <<< n else 0#8

/-- A digest field, 0 when absent (R174). -/
def digestField (d : Option Word) : List Byte := field16 (d.getD 0#16)

/-- The PLAN STATUS result (R100, R175). -/
def planStatusResult (s : State) : List Byte :=
  let x := s.exchange
  [exchangeStateField x.state, sideField x.side, requesterField x.requester]
    ++ digestField x.offered ++ digestField x.peerOffer ++ digestField x.answer
    ++ [markBit 0 x.offered.isNone ||| markBit 1 x.peerOffer.isNone ||| markBit 2 x.answer.isNone
          ||| markBit 3 x.target.isNone ||| markBit 4 x.last.isNone,
        x.target.getD 0#8, byteOf x.count, bankField s.plan.active,
        markBit 0 x.mismatch ||| markBit 1 x.adoptionPending]
    ++ (match x.last with
        | some r => [planOutcomeField r.kind, refusalField r.reason, requesterField r.requester, r.cycle]
        | none => [0#8, 0#8, 0#8, 0#8])
    ++ [s.framer.cycle]

/-- PLAN STATUS (R100). -/
def execPlanStatus (p : Port) (s : State) : Host.Outcome State Fault Refusal :=
  takeCommand (engineTakes s p 0x25#8) p (fun s => (.done (planStatusResult s), s)) s

end Sys2Proof.Machine
end

