-- ==== Sys2Proof/Machine/Service.lean ====
section
/-! DEFINITION. The service channel: its transmit side (R46 to R52), its receive side (R53 to R59), the
maintenance state (R60 to R64), entry into DOWN (R66), and the commands SEND SERVICE, TAKE REPORT and
MAINT. -/

namespace Sys2Proof.Machine

open Sys2Proof

/-! ## Maintenance state (R60 to R64) -/

def noLoops : Vector Bool 24 := Vector.replicate 24 false
def allLoops : Vector Bool 24 := Vector.replicate 24 true

def setLoops (s : State) (v : Vector Bool 24) : State :=
  { s with service := { s.service with loopSet := v } }

/-- LOOP SLOT adds one slot; a slot already in the set stays (R60). -/
def addLoop (s : State) (i : SlotNo) : State := setLoops s (s.service.loopSet.set i.val true)

def setBadStart (s : State) (n : Option Nat) : State :=
  { s with service := { s.service with badStart := n } }

def setBadChecks (s : State) (b : Bool) : State :=
  { s with framer := { s.framer with badChecks := b } }

def setBlind (s : State) (b : Bool) : State :=
  { s with framer := { s.framer with checkBlind := b } }

/-- All latched maintenance state cleared at once (R64). -/
def clearTests (s : State) : State :=
  setBlind (setBadChecks (setBadStart (setLoops s noLoops) none) false) false

/-! ## The transmit side (R46, R47, R52, R61) -/

/-- A message moved from the origin queue enters the await list: to PEER or ALL, a VALUE or an ORDER
other than NONE, DECLINE and the plan codes (R52). -/
def Message.awaits (m : Message) : Bool :=
  targetsPeer m.target &&
    (m.kind == .value || !(m.code == codeNone || m.code == codeDecline || isPlanCode m.code))

/-- The await list with a message added; when it holds 4 the oldest is dropped first (R52). -/
def awaitAdd (l : List Message) (m : Message) : List Message :=
  (if 4 ≤ l.length then l.tail else l) ++ [m]

/-- A message placed in the transmit slot, hold count 0 (R46). -/
def placeInSlot (s : State) (m : Message) : State :=
  { s with service := { s.service with slot := m, hold := 0 } }

/-- The bad-checks start begins when its echo enters the slot, unless one is counting (R61). -/
def beginBadStart (s : State) : State :=
  if s.service.badStart.isSome then s else setBadStart s (some 0)

/-- The answer place's message moves into the transmit slot, with the effects of its entry: the
target of an AGREE (R87), the bad-checks start of its echo (R61). -/
def moveAnswer (s : State) (a : Answer) : State :=
  let s := { s with service := { s.service with answer := none } }
  match a.source with
  | .plan =>
    if a.message.code = codePlanAgree then
      placeInSlot (agreeEntered s) { a.message with argument := (agreeTarget s).setWidth 16 }
    else placeInSlot s a.message
  | .badChecksEcho => beginBadStart (placeInSlot s a.message)
  | .other => placeInSlot s a.message

/-- The oldest message of the origin queue moves into the transmit slot (R47, R52). -/
def moveOrigin (s : State) (e : OriginEntry) (rest : List OriginEntry) : State :=
  let s := placeInSlot { s with service := { s.service with origin := rest } } e.message
  if e.message.awaits then
    { s with service := { s.service with await := awaitAdd s.service.await e.message } }
  else s

/-- The choice of R47: an answer before an origin message, and either only after three positions. -/
def chooseMessage (s : State) : State :=
  if s.service.hold < 3 then s
  else
    match s.service.answer with
    | some a => moveAnswer s a
    | none =>
      match s.service.origin with
      | e :: rest => moveOrigin s e rest
      | [] => s

/-- A position boundary at which the position is sent: the choice, then one more position sent (R46). -/
def positionBoundary (s : State) : State :=
  let s := chooseMessage s
  { s with service := { s.service with hold := s.service.hold + 1 } }

/-! ## The receive side (R53 to R59) -/

/-- A report record made: stored while the queue holds fewer than 8, else lost to the overflow mark;
SERVICE raised on the service port either way (R59). -/
def addReport (s : State) (r : Report) : State :=
  let v := s.service
  let v := if v.reports.length < 8 then { v with reports := v.reports ++ [r] }
    else { v with overflow := true }
  { s with service := v }.raise s.settings.servicePort .service

/-- The relay report queue emptied and its mark cleared (R59, R166). -/
def clearReports (s : State) : State :=
  { s with service := { s.service with reports := [], overflow := false } }

/-- The argument a DECLINE of a message carries: its code, plus 256 for a VALUE (R44). -/
def declineArgument (kind : MessageKind) (code : Byte) : Word :=
  match kind with
  | .order => code.setWidth 16
  | .value => code.setWidth 16 + 256#16

/-- The oldest await entry that a DECLINE's argument names is removed (R52). -/
def declineAwait (s : State) (argument : Word) : State :=
  { s with service := { s.service with
      await := s.service.await.eraseP fun e => declineArgument e.kind e.code == argument } }

/-- The answer to a foreign target: NONE with the received target (R56, R57). -/
def answerForeign (s : State) (m : Message) : State :=
  writeAnswer s ⟨m.target, .order, codeNone, 0#16⟩ .other

/-- DECLINE with the received target (R56, R57). -/
def answerDecline (s : State) (m : Message) : State :=
  writeAnswer s ⟨m.target, .order, codeDecline, declineArgument m.kind m.code⟩ .other

/-- A maintenance code with its argument in range (R56). -/
def maintenanceInRange (m : Message) : Bool :=
  (m.code == codeLoopSlot && m.argument.toNat ≤ 23)
    || ((m.code == codeLoopAll || m.code == codeSendBadChecks || m.code == codeExpectBadChecks
        || m.code == codeClearTests) && m.argument == 0#16)

/-- The maintenance action of a confirmed order (R60 to R64). SEND BAD CHECKS sets nothing yet (R61). -/
def maintenanceAction (s : State) (m : Message) : State :=
  if m.code = codeLoopAll then setLoops s allLoops
  else if m.code = codeLoopSlot then
    match slot? (lowByte m.argument) with
    | some i => addLoop s i
    | none => s
  else if m.code = codeExpectBadChecks then setBlind s true
  else if m.code = codeClearTests then clearTests s
  else s

/-- The source an echo is written with (R56). -/
def echoSource (m : Message) : AnswerSource :=
  if m.kind = .order && m.code = codeSendBadChecks then .badChecksEcho else .other

/-- AUTO handling of a confirmed ORDER (R56). A DECLINE with a foreign target takes no await entry off: the
row for foreign targets is followed before R52. DEDUCED, log entry 28. -/
def autoOrder (s : State) (m : Message) : Disposition × State :=
  if !targetsPeer m.target then (.foreign, answerForeign s m)
  else if m.code = codeNone then (.noted, s)
  else if m.code = codeDecline then (.noted, declineAwait s m.argument)
  else if maintenanceInRange m then
    (.executed, writeAnswer (maintenanceAction s m) m (echoSource m))
  else (.declined, answerDecline s m)

/-- AUTO handling of a confirmed VALUE (R57). -/
def autoValue (s : State) (m : Message) : Disposition × State :=
  if !targetsPeer m.target then (.foreign, answerForeign s m)
  else
    match cell? m.code with
    | some k =>
      if s.settings.peerWritable.getLsbD k.val then
        (.executed, writeAnswer (peerWrite s k m.argument) m .other)
      else (.declined, answerDecline s m)
    | none => (.declined, answerDecline s m)

/-- The disposal of a confirmed message (R55). In RELAY a DECLINE of any target takes its await entry off, as
R52 and R55 name no target. DEDUCED, log entry 28. -/
def dispose (s : State) (m : Message) : Disposition × State :=
  if m.isPlan then (.plan, planReceived s m)
  else if s.service.await.contains m then
    (.echo, { s with service := { s.service with await := s.service.await.erase m } })
  else
    match s.settings.mode with
    | .auto =>
      match m.kind with
      | .order => autoOrder s m
      | .value => autoValue s m
    | .relay =>
      (.held, if m.kind = .order && m.code = codeDecline then declineAwait s m.argument else s)

/-- The filter asks for a record of this position, before its confirmation is known (R53 step 1, R58). -/
def filterAsks (s : State) (m : Message) : Bool :=
  s.settings.mode == .relay &&
    (s.settings.filter == .every
      || (s.settings.filter == .change && s.service.previous != some m))

/-- A confirmed message gives its record with its disposition: in AUTO always, in RELAY under EVERY
and CONFIRMED (R55, R58). -/
def confirmationReported (s : State) : Bool :=
  s.settings.mode == .auto || s.settings.filter != .change

/-- The look run after one more position (R53 step 3). -/
def nextLook (look : Option LookRun) (m : Message) : LookRun :=
  match look with
  | some r => if r.candidate = m then ⟨m, min 3 (r.length + 1)⟩ else ⟨m, 1⟩
  | none => ⟨m, 1⟩

/-- This position brings the run to 3 (R53 step 4). -/
def reachesThree (look : Option LookRun) (m : Message) : Bool :=
  match look with
  | some r => r.candidate == m && r.length == 2
  | none => false

/-- One accepted position, handled whole (R53). -/
def positionReceived (s : State) (position : Position) (cycle : Byte) (m : Message) : State :=
  let asks := filterAsks s m
  let confirmed := reachesThree s.service.look m && s.service.lastConfirmed != some m
  let s := { s with service := { s.service with
      previous := some m, look := some (nextLook s.service.look m) } }
  if confirmed then
    let r := dispose { s with service := { s.service with lastConfirmed := some m } } m
    if confirmationReported s then addReport r.2 ⟨m, cycle, position, r.1⟩
    else if asks then addReport r.2 ⟨m, cycle, position, .seen⟩ else r.2
  else if asks then addReport s ⟨m, cycle, position, .seen⟩
  else s

/-- A rejected cycle, and entry into RESYNC, break the look run (R54). -/
def breakLook (s : State) : State := { s with service := { s.service with look := none } }

/-- The service channel at an entry into DOWN (R66). -/
def serviceDown (s : State) : State :=
  { s with service := { s.service with
      slot := Message.idle, hold := 0, answer := none, origin := [], await := [], look := none
      lastConfirmed := none, previous := none, loopSet := noLoops, badStart := none } }

/-! ## The commands -/

/-- The link carries no frames: DOWN, WAKING or ANSWERING (R51, R65). -/
def LinkState.resting (l : LinkState) : Bool := l == .down || l == .waking || l == .answering

/-- The checks SEND SERVICE makes in both of its forms, and its message (R51, R167). -/
def sendServiceMessage (p : Port) (s : State) : Except ResultCode Message :=
  let q := s.port p
  if s.settings.servicePort ≠ p then .error .notServicePort
  else if s.link.state.resting then .error .linkDown
  else
    match kind? (param q 1) with
    | none => .error .badParam
    | some kind =>
      if 15 < (param q 0).toNat || (kind == .order && isPlanCode (param q 2)) then .error .badParam
      else .ok ⟨(param q 0).setWidth 4, kind, param q 2, param16 q 3⟩

/-- SEND SERVICE with the answer flag clear: to the origin queue (R51). -/
def sendService (p : Port) (s : State) : Reply × State :=
  match sendServiceMessage p s with
  | .error r => (.refuse r, s)
  | .ok m =>
    if 3 ≤ s.service.origin.length then (.refuse .svcFull, s)
    else (.done [], { s with service := { s.service with origin := s.service.origin ++ [⟨m, false⟩] } })

/-- SEND SERVICE with the answer flag clear. -/
def execSendService (p : Port) (s : State) : Host.Outcome State Fault Refusal :=
  takeCommand (engineTakes s p 0x10#8 && !flagParam (param (s.port p) 5)) p (sendService p) s

/-- SEND SERVICE with the answer flag set: to the answer place, source other (R51). -/
def sendServiceAnswer (p : Port) (s : State) : Reply × State :=
  match sendServiceMessage p s with
  | .error r => (.refuse r, s)
  | .ok m => (.done [], writeAnswer s m .other)

/-- SEND SERVICE with the answer flag set. -/
def execSendServiceAnswer (p : Port) (s : State) : Host.Outcome State Fault Refusal :=
  takeCommand (engineTakes s p 0x10#8 && flagParam (param (s.port p) 5)) p (sendServiceAnswer p) s

/-- The TAKE REPORT result of a record (R176). -/
def reportResult (r : Report) (overflow : Bool) : List Byte :=
  [r.message.target.setWidth 8, kindField r.message.kind, r.message.code]
    ++ field16 r.message.argument
    ++ [r.cycle, positionField r.position, dispositionField r.disposition, flagField overflow]

/-- TAKE REPORT: the oldest record with the queue's mark, which is then cleared; EMPTY without a
record (R59, R167). -/
def takeReport (p : Port) (s : State) : Reply × State :=
  if s.settings.servicePort ≠ p then (.refuse .notServicePort, s)
  else
    match s.service.reports with
    | [] => (.empty [], s)
    | r :: rest =>
      (.done (reportResult r s.service.overflow),
        { s with service := { s.service with reports := rest, overflow := false } })

/-- TAKE REPORT. -/
def execTakeReport (p : Port) (s : State) : Host.Outcome State Fault Refusal :=
  takeCommand (engineTakes s p 0x11#8) p (takeReport p) s

/-- The MAINT action codes (R174). -/
def maintActions : List Byte := [1#8, 2#8, 3#8, 4#8, 5#8, 6#8, 7#8, 8#8]

/-- The engine takes a MAINT command that stands for the row of one action: its action byte is that
action's, or names no action at all, which every MAINT row refuses alike (log entry 8). -/
def takesMaint (s : State) (p : Port) (action : Byte) : Bool :=
  engineTakes s p 0x12#8
    && (param (s.port p) 0 == action || !maintActions.contains (param (s.port p) 0))

/-- MAINT's checks before the action (R65, R167), then the action, when its own parameters pass. -/
def maint (p : Port) (action : Byte) (effect : State → Option State) (s : State) : Reply × State :=
  if s.settings.servicePort ≠ p then (.refuse .notServicePort, s)
  else if s.link.state.resting then (.refuse .linkDown, s)
  else if param (s.port p) 0 ≠ action then (.refuse .badParam, s)
  else
    match effect s with
    | some t => (.done [], t)
    | none => (.refuse .badParam, s)

/-- LOOP ALL: the loop set becomes all 24 slots (R65). -/
def execMaintLoopAll (p : Port) (s : State) : Host.Outcome State Fault Refusal :=
  takeCommand (takesMaint s p 1#8) p (maint p 1#8 fun s => some (setLoops s allLoops)) s

/-- LOOP SLOT: the named slot joins the loop set; a slot above 23 is refused (R65). -/
def execMaintLoopSlot (p : Port) (s : State) : Host.Outcome State Fault Refusal :=
  takeCommand (takesMaint s p 2#8) p
    (maint p 2#8 fun s => (slot? (param (s.port p) 1)).map (addLoop s)) s

/-- LOOP CLEAR: the loop set becomes empty (R65). -/
def execMaintLoopClear (p : Port) (s : State) : Host.Outcome State Fault Refusal :=
  takeCommand (takesMaint s p 3#8) p (maint p 3#8 fun s => some (setLoops s noLoops)) s

/-- BAD CHECKS ON: a counting start becomes absent and bad-checks is set at once (R65). -/
def execMaintBadChecksOn (p : Port) (s : State) : Host.Outcome State Fault Refusal :=
  takeCommand (takesMaint s p 4#8) p
    (maint p 4#8 fun s => some (setBadChecks (setBadStart s none) true)) s

/-- BAD CHECKS OFF: a counting start becomes absent and bad-checks is cleared (R65). -/
def execMaintBadChecksOff (p : Port) (s : State) : Host.Outcome State Fault Refusal :=
  takeCommand (takesMaint s p 5#8) p
    (maint p 5#8 fun s => some (setBadChecks (setBadStart s none) false)) s

/-- BLIND ON (R65). -/
def execMaintBlindOn (p : Port) (s : State) : Host.Outcome State Fault Refusal :=
  takeCommand (takesMaint s p 6#8) p (maint p 6#8 fun s => some (setBlind s true)) s

/-- BLIND OFF (R65). -/
def execMaintBlindOff (p : Port) (s : State) : Host.Outcome State Fault Refusal :=
  takeCommand (takesMaint s p 7#8) p (maint p 7#8 fun s => some (setBlind s false)) s

/-- CLEAR ALL: as a confirmed CLEAR TESTS, without an echo (R65). -/
def execMaintClearAll (p : Port) (s : State) : Host.Outcome State Fault Refusal :=
  takeCommand (takesMaint s p 8#8) p (maint p 8#8 fun s => some (clearTests s)) s

end Sys2Proof.Machine
end

