-- ==== Sys2Proof/Machine/Link.lean ====
section
/-! DEFINITION. The link controller: claims and tries (R24 to R29), the entries into its states (R30,
R35 to R41), the steps of the tones and of its timers, and the commands LINK UP, LINK DOWN, LINK STATUS
and COUNTERS. -/

namespace Sys2Proof.Machine

open Sys2Proof

/-- What the transmit pair carries. -/
def setLine (s : State) (x : Line) : State := { s with framer := { s.framer with line := x } }

/-! ## Tries and answers (R26, R28, R29) -/

/-- The conditions of a try (R26). -/
def Link.tryMayBegin (l : Link) : Bool :=
  l.state == .down && l.demands && !l.quietGuard && !l.tryTimer && l.tryCount < 5 && !l.wakeHeard

/-- A try begins: WAKING, with the WAKE tone, the tone timer and the try timer (R26). -/
def beginTry (s : State) : State :=
  setLine { s with link := { s.link with
    state := .waking, toneTimer := some .wake, tryTimer := true } } .wakeTone

def tryIfReady (s : State) : State := if s.link.tryMayBegin then beginTry s else s

/-- ANSWERING, with the ANSWER tone and its tone timer (R29). -/
def enterAnswering (s : State) : State :=
  setLine { s with link := { s.link with state := .answering, toneTimer := some .answer } } .answerTone

/-- A heard WAKE tone is answered: auto-answer is on or the claim set is not empty (R28). -/
def willAnswer (s : State) : Bool := s.settings.autoAnswer || s.link.demands

/-- The decision of R28 made again while WAKE is heard in DOWN. -/
def answerIfWilling (s : State) : State :=
  if s.link.state == .down && s.link.wakeHeard && willAnswer s then enterAnswering s else s

/-! ## Entries into the states -/

/-- ALIGNING: the align timer runs, the tones are over, and the receive side looks for frames afresh
(R30, R31). The tone detector is not watched from here on, so nothing is being heard (log entry 12). -/
def enterAligning (s : State) : State :=
  { s with
    link := { s.link with state := .aligning, toneTimer := none, alignTimer := true, wakeHeard := false }
    framer := { s.framer with
      line := .quiet, framed := false, hunt := 0, badRun := 0, goodRun := 0, firstCycle := false } }

/-- UP from SYNCED: try count 0, READY wait stopped, LINK to all ports (R35). -/
def enterUp (s : State) : State :=
  { s with link := { s.link with state := .up, tryCount := 0, readyWait := none } }.raiseAll .link

/-- RESYNC: its count at 0, the check pending absent, the disagreement run and the mismatch run 0, the
look run empty (R38, R54, R95). -/
def enterResync (s : State) : State :=
  clearMismatchRun (breakLook { s with
    link := { s.link with state := .resync, resyncCount := some 0 }
    framer := { s.framer with pendingCheck := none, disagreeRun := 0 } })

/-- LEAVING: its count at 0; the READY wait, which counts while SYNCED, stops (R23, R36; log entry 20). -/
def enterLeaving (s : State) : State :=
  clearMismatchRun { s with link := { s.link with
    state := .leaving, leavingCount := some 0, readyWait := none } }

/-- The first leaving rule: no demand at either end (R36). -/
def leaveIfUnwanted (s : State) : State :=
  if !s.link.demands && !s.link.peerDemand then enterLeaving s else s

/-- What a change of the claim set brings about in this end's state (R24, R26, R28, R36). -/
def reviewClaims (s : State) : State :=
  match s.link.state with
  | .down => if s.link.wakeHeard then answerIfWilling s else tryIfReady s
  | .synced => leaveIfUnwanted s
  | .up => leaveIfUnwanted s
  | _ => s

/-! ## DOWN (R20, R40, R41) -/

/-- The framer at an entry into DOWN (R20). The local cycle number is kept; at the Clock end the frame
timing, and with it a cycle start in progress, runs on. -/
def Framer.entersDown (f : Framer) : Framer :=
  { f with
    line := .quiet
    cycleOpen := f.role == .clock && f.cycleOpen
    outCheck := none, lastCheck := checkStart
    framed := false, badRun := 0, goodRun := 0, firstCycle := false, hunt := 0
    pendingCheck := none, disagreeRun := 0
    peerFlags := 0#8, farErrorToSend := false, badChecks := false, checkBlind := false
    nearEnd := 0#8, farEnd := 0#8
    lastHanded := none }

/-- The link controller at an entry into DOWN: timers and counts stop, the quiet guard starts, the try
timer runs on, the claims are kept (R40). -/
def Link.entersDown (l : Link) : Link :=
  { l with
    state := .down
    quietGuard := true, toneTimer := none, alignTimer := false
    readyWait := none, resyncCount := none, leavingCount := none
    peerDemand := false, peerReady := false }

/-- The entry's announcement, taken by each block in turn (R20, R66, R69, R99, R141). -/
def announceDown (order : ChannelOrder) (s : State) : State :=
  let s := { s with
    framer := s.framer.entersDown, link := s.link.entersDown
    plan := s.plan.followActive }
  channelsDown order (exchangeDown (serviceDown s))

/-- Entry into DOWN. A WAKE tone being heard is then answered or seen (R28, R40). -/
def enterDown (order : ChannelOrder) (s : State) : State :=
  let s := announceDown order s
  if s.link.wakeHeard then
    if willAnswer s then enterAnswering s else s.raiseAll .wakeSeen
  else s

/-- A failed try: the count one higher, at most 5; WAKE_FAILED when it then stands at 5, else the
entry's own reason; DOWN; LINK when the row of R41 has it or the count stands at 5 (R27, R41). A count at 5
before the try stays there and gives WAKE_FAILED too, as R32 and R34 say, where R41 speaks of an increase that
brings it to 5. DEDUCED, log entry 13. -/
def failTry (order : ChannelOrder) (reason : Option FailureReason) (s : State) : State :=
  let count := min 5 (s.link.tryCount + 1)
  let failed := if count = 5 then .wakeFailed else reason.getD s.link.lastFailure
  let t := enterDown order { s with link := { s.link with tryCount := count, lastFailure := failed } }
  if reason.isSome || count = 5 then t.raiseAll .link else t

/-- A second Clock end found: count 5, ROLE_CLASH, DOWN, LINK (R33, R41). -/
def roleClash (order : ChannelOrder) (s : State) : State :=
  (enterDown order { s with link := { s.link with tryCount := 5, lastFailure := .roleClash } }).raiseAll
    .link

/-- The RESYNC limit: LOST, DOWN, LINK; the try count is unchanged (R39, R41). -/
def resyncLost (order : ChannelOrder) (s : State) : State :=
  (enterDown order { s with link := { s.link with lastFailure := .lost } }).raiseAll .link

/-- LEAVING completed: DOWN and LINK; reason and try count unchanged (R37, R41). -/
def leavingDone (order : ChannelOrder) (s : State) : State := (enterDown order s).raiseAll .link

/-! ## The commands -/

/-- The try count after LINK UP: 0, but in ANSWERING as it stands. R24 has LINK UP set it to 0, and R29 has it
not changed in ANSWERING; the model takes R29 as the exception. DEDUCED, log entry 26. -/
def Link.tryCountAfterLinkUp (l : Link) : Nat := if l.state = .answering then l.tryCount else 0

/-- LINK UP: the port joins the claim set, and the try count becomes 0 (R24; in ANSWERING R29, log entry
26). -/
def linkUp (p : Port) (s : State) : Reply × State :=
  (.done [], reviewClaims { s with link := { s.link with
    claims := s.link.claims.set p true, tryCount := s.link.tryCountAfterLinkUp } })

/-- LINK UP. -/
def execLinkUp (p : Port) (s : State) : Host.Outcome State Fault Refusal :=
  takeCommand (engineTakes s p 0x01#8) p (linkUp p) s

/-- A port's claim removed (R24). -/
def removeClaim (p : Port) (s : State) : State :=
  reviewClaims { s with link := { s.link with claims := s.link.claims.set p false } }

/-- LINK DOWN (R24). -/
def execLinkDown (p : Port) (s : State) : Host.Outcome State Fault Refusal :=
  takeCommand (engineTakes s p 0x02#8) p (fun s => (.done [], removeClaim p s)) s

/-- The claim set as bits 0 to 2 (R175). -/
def claimBits (c : PerPort Bool) : Byte :=
  (if c.p1 then 1#8 else 0#8) ||| (if c.p2 then 2#8 else 0#8) ||| (if c.p3 then 4#8 else 0#8)

/-- The LINK STATUS result (R43, R175). -/
def linkStatusResult (p : Port) (s : State) : List Byte :=
  [linkStateField s.link.state, claimBits s.link.claims, roleField s.framer.role,
    failureField s.link.lastFailure, byteOf s.link.tryCount, s.framer.cycle, s.framer.peerFlags,
    portNumber p]

/-- LINK STATUS (R43). -/
def execLinkStatus (p : Port) (s : State) : Host.Outcome State Fault Refusal :=
  takeCommand (engineTakes s p 0x03#8) p (fun s => (.done (linkStatusResult p s), s)) s

/-- COUNTERS: both counters, then both 0 when clearing is asked (R17). -/
def counters (p : Port) (s : State) : Reply × State :=
  (.done [s.framer.nearEnd, s.framer.farEnd],
    if flagParam (param (s.port p) 0) then
      { s with framer := { s.framer with nearEnd := 0#8, farEnd := 0#8 } }
    else s)

/-- COUNTERS. -/
def execCounters (p : Port) (s : State) : Host.Outcome State Fault Refusal :=
  takeCommand (engineTakes s p 0x04#8) p (counters p) s

/-! ## The tone detector's reports (R25, R27, R28) -/

/-- WAKE heard in DOWN: answered, or WAKE_SEEN to all ports (R28). -/
def wakeHeardInDown (s : State) : State :=
  if s.link.wakeHeard then s
  else
    let s := { s with link := { s.link with wakeHeard := true } }
    if willAnswer s then enterAnswering s else s.raiseAll .wakeSeen

/-- WAKE heard (R27, R28, R29). The detector reports in DOWN, WAKING and ANSWERING only (R25). -/
def execWakeHeard (s : State) : Host.Outcome State Fault Refusal :=
  .next (match s.link.state with
    | .down => wakeHeardInDown s
    | .waking => enterAnswering { s with link := { s.link with wakeHeard := true } }
    | .answering => { s with link := { s.link with wakeHeard := true } }
    | _ => s)

/-- WAKE gone: in DOWN the conditions of a try are checked again (R26). -/
def execWakeGone (s : State) : Host.Outcome State Fault Refusal :=
  .next (if s.link.wakeHeard then
      tryIfReady { s with link := { s.link with wakeHeard := false } }
    else s)

/-- ANSWER heard: acted on in WAKING alone (R25, R27). -/
def execAnswerHeard (s : State) : Host.Outcome State Fault Refusal :=
  .next (if s.link.state = .waking then enterAligning s else s)

/-- ANSWER gone: no state acts on it (R25, R29). -/
def execAnswerGone (s : State) : Host.Outcome State Fault Refusal := .next s

/-! ## The timers -/

/-- The quiet guard runs out (R26). -/
def execQuietGuardExpiry (s : State) : Host.Outcome State Fault Refusal :=
  .next (if s.link.quietGuard then
      tryIfReady { s with link := { s.link with quietGuard := false } }
    else s)

/-- The try timer runs out (R26). -/
def execTryTimerExpiry (s : State) : Host.Outcome State Fault Refusal :=
  .next (if s.link.tryTimer then tryIfReady { s with link := { s.link with tryTimer := false } } else s)

/-- The WAKE tone timer runs out: a failed try, with no reason of its own (R27, R41). -/
def execWakeToneTimerExpiry (order : ChannelOrder) (s : State) : Host.Outcome State Fault Refusal :=
  .next (if s.link.state == .waking && s.link.toneTimer == some .wake then failTry order none s else s)

/-- The ANSWER tone timer runs out (R29). -/
def execAnswerToneTimerExpiry (s : State) : Host.Outcome State Fault Refusal :=
  .next (if s.link.state == .answering && s.link.toneTimer == some .answer then enterAligning s else s)

/-- The align timer runs out (R32). -/
def execAlignTimerExpiry (order : ChannelOrder) (s : State) : Host.Outcome State Fault Refusal :=
  .next (if s.link.state == .aligning && s.link.alignTimer then failTry order (some .alignFailed) s
    else s)

/-- The 40th expected frame place in RESYNC passes without alignment regained (R39). -/
def execResyncLimit (order : ChannelOrder) (s : State) : Host.Outcome State Fault Refusal :=
  .next (match s.link.state, s.link.resyncCount with
    | .resync, some n => if 39 ≤ n then resyncLost order s else s
    | _, _ => s)

end Sys2Proof.Machine
end

