-- ==== Sys2Proof/Machine/Framer.lean ====
section
/-! DEFINITION. The framer: the outbound frame and its service byte (R1 to R4, R7, R8, R10), the cycle
start and what falls due at it (R4, R34, R37, R61, R85, R93, R97), the received frame (R5, R6, R11), the
decision on a received cycle (R12 to R16, R18, R19, R33 to R36) and the hunt (R30, R31). -/

namespace Sys2Proof.Machine

open Sys2Proof

/-- The frame after a frame of a cycle (R1). -/
def nextFrame (f : FrameNo) : FrameNo := f + 1

/-- Outbound frames are being sent (R2). -/
def framesSent (s : State) : Bool :=
  match s.link.state with
  | .down | .waking | .answering => false
  | .aligning => s.framer.role == .clock || s.framer.framed
  | .synced | .up | .resync | .leaving => true

/-! ## The service byte (R7, R8, R10) -/

/-- READY is sent from SYNCED on (R8, R34). -/
def LinkState.sendsReady (l : LinkState) : Bool :=
  l == .synced || l == .up || l == .resync || l == .leaving

/-- The flags byte composed of the state held at this moment (R8). -/
def composedFlags (s : State) : Byte :=
  composeFlagsByte s.link.state.sendsReady s.link.demands (s.link.state == .leaving)
    s.framer.farErrorToSend (s.plan.active == .b1) s.service.looping (s.framer.role == .clock)

/-- The service byte of frame `f` of the cycle in progress (R7). -/
def Framer.serviceByte (x : Framer) (f : FrameNo) : Byte :=
  if f.val < 4 then x.positionMessage.bytes.getD f.val 0#8
  else if f.val = 4 then x.statusFlags
  else if f.val = 5 then x.statusCycle
  else if f.val < 10 then x.positionMessage.bytes.getD (f.val - 6) 0#8
  else if f.val = 10 then lowByte x.checkField
  else highByte x.checkField

/-- A frame with a position's first byte begins: the choice of R47 when the frame is sent, and the
position carries what the transmit slot then holds (R7, R46). -/
def beginPosition (s : State) : State :=
  let s := if framesSent s then positionBoundary s else s
  { s with framer := { s.framer with positionMessage := s.service.slot } }

/-- Frame 4 begins: both bytes of the status field are composed (R8). -/
def composeStatus (s : State) : State :=
  { s with framer := { s.framer with statusFlags := composedFlags s, statusCycle := s.framer.cycle } }

/-- The status field is sent: a FAR_ERROR it carries is cleared, and one with LEAVING counts (R14, R37;
log entry 10). -/
def statusSent (s : State) : State :=
  let s := if flagSet s.framer.statusFlags .farError then
      { s with framer := { s.framer with farErrorToSend := false } } else s
  if flagSet s.framer.statusFlags .leaving then
    { s with link := { s.link with leavingCount := s.link.leavingCount.map fun n => min 4 (n + 1) } }
  else s

/-- Frame 10 begins: the previous cycle's check, inverted when bad-checks is set (R10). -/
def readCheckField (s : State) : State :=
  let c := s.framer.lastCheck
  { s with framer := { s.framer with checkField := if s.framer.badChecks then ~~~c else c } }

/-- A frame 0 that is sent starts the check over its cycle; the check computed so far is then the
previous cycle's (R10, R20). -/
def beginOutCheck (s : State) : State :=
  { s with framer := { s.framer with
    lastCheck := s.framer.outCheck.getD s.framer.lastCheck, outCheck := some checkStart } }

/-- What the framer reads and settles at the start of frame `f`, before its payload. -/
def beginService (f : FrameNo) (s : State) : State :=
  if f.val = 0 then beginPosition (if framesSent s then beginOutCheck s else s)
  else if f.val = 4 then composeStatus s
  else if f.val = 5 then (if framesSent s then statusSent s else s)
  else if f.val = 6 then beginPosition s
  else if f.val = 10 then readCheckField s
  else s

/-! ## The outbound frame (R1, R3) -/

/-- Byte `j` of slot `i` of the frame that begins: loop bytes, the channel table's bytes, or 0x00 (R3). -/
def outboundByte (s : State) (units : FrameUnits) (i : SlotNo) (j : Fin 4) : Byte :=
  if s.service.loopSet[i.val] then
    match s.link.state, s.framer.lastHanded with
    | .resync, _ => 0#8
    | _, some payload => payload[4 * i.val + j.val]
    | _, none => 0#8
  else suppliedByte s.plan.activeTables.out units i j.val

/-- The 96 payload bytes of the frame that begins (R1, R3). -/
def outboundPayload (s : State) (units : FrameUnits) : Payload :=
  Vector.ofFn fun n => outboundByte s units ⟨n.val / 4, by omega⟩ ⟨n.val % 4, by omega⟩

/-- The marker of frame `f` (R1, R183). -/
def markerOf (f : FrameNo) : Byte := if f.val = 0 then cycleMarker else frameMarker

/-- The frame goes out on the line, and the check over its cycle takes it in (R1, R9, R10). -/
def sendFrame (f : FrameNo) (payload : Payload) (s : State) : State :=
  let service := s.framer.serviceByte f
  { s with framer := { s.framer with
    line := .frame (markerOf f) payload service
    outCheck := s.framer.outCheck.map (checkFrame f payload service) } }

/-- Outbound frame `f` begins: its service byte, the loop pauses, the channels' units, its payload
(R3, R128, R131; log entry 10). -/
def beginFrame (order : ChannelOrder) (f : FrameNo) (s : State) : State :=
  let s := updateLoopPauses (beginService f s)
  let r := formUnits (channelOrder order) (Vector.replicate 8 [], s)
  if framesSent r.2 then sendFrame f (outboundPayload r.2 r.1) r.2 else r.2

/-! ## The cycle start -/

/-- The counts of cycle starts: the READY wait in SYNCED (R34), the OFFERED count (R85), the bad-checks
start (R61). -/
def countCycleStart (s : State) : State :=
  { s with
    link := { s.link with readyWait := s.link.readyWait.map fun n => min 50 (n + 1) }
    exchange := { s.exchange with
      count := if s.exchange.state = .offered then min 48 (s.exchange.count + 1) else s.exchange.count }
    service := { s.service with badStart := s.service.badStart.map fun n => min 4 (n + 1) } }

/-- The start of a cycle entered once: the cycle number goes up by one and the counts are made (R4;
log entry 5). -/
def openCycle (s : State) : State :=
  if s.framer.cycleOpen then s
  else countCycleStart { s with framer := { s.framer with
    cycle := s.framer.cycle + 1#8, cycleOpen := true } }

/-- The 50th cycle start in SYNCED has been counted (R34). -/
def readyWaitDue (s : State) : Bool :=
  s.link.state == .synced && match s.link.readyWait with | some n => 50 ≤ n | none => false

/-- Four status fields have been sent with LEAVING (R37). -/
def leavingDue (s : State) : Bool :=
  s.link.state == .leaving && match s.link.leavingCount with | some n => 4 ≤ n | none => false

/-- The fourth cycle start after the bad-checks echo moved in has been counted (R61). -/
def badStartDue (s : State) : Bool :=
  match s.service.badStart with | some n => 4 ≤ n | none => false

/-- The bad-checks start ends and bad-checks is set (R61). -/
def badStartExpires (s : State) : State := setBadChecks (setBadStart s none) true

/-- An act made when it is due. -/
def whenDue (due : State → Bool) (act : State → State) (s : State) : State :=
  if due s then act s else s

/-- Everything that falls due at a cycle start. The manual names no order among them, nor between them and the
boundary of position A, which comes after all of them here. DESIGN CHOICE, log entry 5. -/
def runDue (order : ChannelOrder) (s : State) : State :=
  whenDue adoptionDue (bankAdoptionOp order) <|
  whenDue swapDue (planSwapOp order) <|
  whenDue timeoutDue planTimeoutOp <|
  whenDue badStartDue badStartExpires <|
  whenDue leavingDue (leavingDone order) <|
  whenDue readyWaitDue (failTry order (some .readyTimeout)) s

/-- An outbound frame may begin: at the Clock end always; at the Follow end when the received frame of
the next number is due and frames are sent (R4). -/
def frameMayStart (s : State) : Bool :=
  s.framer.role == .clock || (framesSent s && s.framer.dueFrame == nextFrame s.framer.outFrame)

/-- A cycle start is being entered: one of its steps has been taken, or frame 0 begins next (R4). -/
def cycleStartReady (s : State) : Bool :=
  s.framer.cycleOpen || (nextFrame s.framer.outFrame == 0 && frameMayStart s)

/-- A step of a cycle start taken by itself: it enters the cycle and acts when it is due there; where
it is not due it changes nothing (log entries 4 and 5). -/
def cycleStep (due : State → Bool) (act : State → State) (s : State) : State :=
  if cycleStartReady s && due (openCycle s) then act (openCycle s) else s

/-- READY_WAIT_EXPIRY (R34). -/
def execReadyWaitExpiry (order : ChannelOrder) (s : State) : Host.Outcome State Fault Refusal :=
  .next (cycleStep readyWaitDue (failTry order (some .readyTimeout)) s)

/-- LEAVING_COMPLETE (R37). -/
def execLeavingComplete (order : ChannelOrder) (s : State) : Host.Outcome State Fault Refusal :=
  .next (cycleStep leavingDue (leavingDone order) s)

/-- PLAN_TIMEOUT (R85). -/
def execPlanTimeout (s : State) : Host.Outcome State Fault Refusal :=
  .next (cycleStep timeoutDue planTimeoutOp s)

/-- BAD_CHECKS_START_EXPIRY (R61). -/
def execBadChecksStartExpiry (s : State) : Host.Outcome State Fault Refusal :=
  .next (cycleStep badStartDue badStartExpires s)

/-- PLAN_SWAP (R93). -/
def execPlanSwap (order : ChannelOrder) (s : State) : Host.Outcome State Fault Refusal :=
  .next (cycleStep swapDue (planSwapOp order) s)

/-- BANK_ADOPTION (R97). -/
def execBankAdoption (order : ChannelOrder) (s : State) : Host.Outcome State Fault Refusal :=
  .next (cycleStep adoptionDue (bankAdoptionOp order) s)

/-- The outbound frame number becomes `f`; with frame 0 the cycle start is over (R1, R4). -/
def setOutFrame (f : FrameNo) (s : State) : State :=
  { s with framer := { s.framer with
    outFrame := f, cycleOpen := if f.val = 0 then false else s.framer.cycleOpen } }

/-- The next outbound frame starts. With frame 0 everything due at the cycle start is taken first and the
boundary of position A after it, an order that the manual leaves open (R4, R47): a WITHDRAW that the timeout
appends may enter position A at once, and an offer that it removes does not. DESIGN CHOICE, log entry 5. At
the Follow end no frame begins when the cycle start has ended transmission (R4, R37). -/
def startFrame (order : ChannelOrder) (s : State) : State :=
  let f := nextFrame s.framer.outFrame
  let s := setOutFrame f (if f.val = 0 then runDue order (openCycle s) else s)
  if s.framer.role == .clock || framesSent s then beginFrame order f s else s

/-- OUTBOUND_FRAME_START (R3, R4). -/
def execOutboundFrameStart (order : ChannelOrder) (s : State) : Host.Outcome State Fault Refusal :=
  .next (if frameMayStart s then startFrame order s else s)

/-! ## The received cycle (R5, R7, R11) -/

/-- A received frame-0 place begins: the receive bank follows the active bank, the check starts afresh
and a new received cycle is gathered (R11, R69). -/
def openReceived (s : State) : State :=
  { s with
    plan := s.plan.followActive
    framer := { s.framer with
      inCheck := checkStart, receiving := ⟨Vector.replicate 12 0#8, s.plan.active⟩ } }

/-- The marker at the expected place is judged: the bad-marker run, and how many markers just before
the next place were good (R5, R6). -/
def judgeMarker (good : Bool) (s : State) : State :=
  { s with framer := { s.framer with
    badRun := if good then 0 else min 3 (s.framer.badRun + 1)
    goodRun := if good then min 2 (s.framer.goodRun + 1) else 0 } }

/-- The frame number due goes on by one (R5). -/
def advanceDue (s : State) : State :=
  { s with framer := { s.framer with dueFrame := nextFrame s.framer.dueFrame } }

/-- The link states in which received payload is handed over and errors are counted (R2, R5, R15). -/
def LinkState.counted (l : LinkState) : Bool := l == .synced || l == .up || l == .leaving

/-- The payload and the service byte of the frame due are taken in (R5, R9, R11). -/
def gatherFrame (payload : Payload) (service : Byte) (s : State) : State :=
  let f := s.framer.dueFrame
  { s with framer := { s.framer with
    inCheck := checkFrame f payload service s.framer.inCheck
    receiving := { s.framer.receiving with
      service := s.framer.receiving.service.set f.val service } } }

/-- The frame is handed over to the channel table in SYNCED, UP and LEAVING (R3, R5). -/
def handOver (order : ChannelOrder) (payload : Payload) (s : State) : State :=
  if s.link.state.counted then
    deliverFrame order payload { s with framer := { s.framer with lastHanded := some payload } }
  else s

/-- The provisional adoption of the cycle number at the Follow end (R18). -/
def adoptProvisionally (service : Byte) (s : State) : State :=
  if s.framer.role == .follow && s.link.state == .aligning && s.framer.firstCycle
      && s.framer.dueFrame.val == 5 then
    { s with framer := { s.framer with cycle := service } }
  else s

/-! ## The decision (R12 to R16) -/

/-- A byte of the status field or a position of a received cycle. -/
def ReceivedCycle.byte (x : ReceivedCycle) (f : FrameNo) : Byte := x.service[f.val]

def ReceivedCycle.flags (x : ReceivedCycle) : Byte := receivedFlags (x.byte 4)
def ReceivedCycle.number (x : ReceivedCycle) : Byte := x.byte 5
def ReceivedCycle.messageA (x : ReceivedCycle) : Message :=
  messageOf (x.byte 0) (x.byte 1) (x.byte 2) (x.byte 3)
def ReceivedCycle.messageB (x : ReceivedCycle) : Message :=
  messageOf (x.byte 6) (x.byte 7) (x.byte 8) (x.byte 9)
/-- The check field of a cycle, low-order byte first (R7). -/
def ReceivedCycle.checkField (x : ReceivedCycle) : Word := wordOf (x.byte 10) (x.byte 11)

/-- The cycle is rejected (R13 to R15). -/
def rejectCycle (s : State) : State :=
  let s := breakLook s
  if s.link.state.counted then
    { s with framer := { s.framer with
      nearEnd := countUp s.framer.nearEnd, farErrorToSend := true } }
  else s

/-- The flags stored, and FAR_ERROR counted unless bad-checks is set (R12, R16). -/
def storeFlags (flags : Byte) (s : State) : State :=
  let counts := s.link.state.counted && flagSet flags .farError && !s.framer.badChecks
  { s with framer := { s.framer with
    peerFlags := flags, farEnd := if counts then countUp s.framer.farEnd else s.framer.farEnd } }

/-- The Follow end takes the number v of an accepted status field: the outbound cycle now ending is
numbered v + 1 (R18, R19). -/
def adoptNumber (v : Byte) (s : State) : State :=
  { s with framer := { s.framer with cycle := v + 1#8 } }

/-- The comparison of R19: `own` is the number this end gave the outbound cycle that received cycle's
frame 0 started. -/
def compareNumber (v own : Byte) (s : State) : State :=
  if s.framer.role == .follow && s.link.state.counted then
    if v = own then { s with framer := { s.framer with disagreeRun := 0 } }
    else if s.framer.disagreeRun = 0 then { s with framer := { s.framer with disagreeRun := 1 } }
    else adoptNumber v { s with framer := { s.framer with disagreeRun := 0 } }
  else s

/-- BANK passed to the plan exchange, which compares it in UP (R12, R95). -/
def passBank (flags : Byte) (reference : Bank) (s : State) : State :=
  if s.link.state = .up then compareBank s (bankOfFlag (flagSet flags .bank)) reference else s

/-- SYNCED: the align timer stops, the READY wait starts at 0, and the Follow end makes its final
adoption (R18, R33). -/
def enterSynced (v : Byte) (s : State) : State :=
  let s := { s with link := { s.link with state := .synced, alignTimer := false, readyWait := some 0 } }
  if s.framer.role = .follow then adoptNumber v s else s

/-- In SYNCED, READY takes the link to UP (R34). -/
def applyReady (flags : Byte) (s : State) : State :=
  if s.link.state == .synced && flagSet flags .ready then enterUp s else s

/-- The leaving rules, in SYNCED and UP (R36). -/
def applyLeaving (flags : Byte) (s : State) : State :=
  if s.link.state == .synced || s.link.state == .up then
    if flagSet flags .leaving then enterLeaving s else leaveIfUnwanted s
  else s

/-- The link controller's part of a status field that takes effect: peer DEMAND and READY stored, the
role check, then SYNCED, READY and the leaving rules by the state (R23, R33 to R37). -/
def linkAccepts (order : ChannelOrder) (flags v : Byte) (s : State) : State :=
  let s := { s with link := { s.link with
    peerDemand := flagSet flags .demand, peerReady := flagSet flags .ready } }
  if s.framer.role == .clock && flagSet flags .clockRole then roleClash order s
  else
    applyLeaving flags (applyReady flags (if s.link.state = .aligning then enterSynced v s else s))

/-- The positions handed to the service channel, A then B (R12, R53). -/
def handPositions (x : ReceivedCycle) (s : State) : State :=
  positionReceived (positionReceived s .a x.number x.messageA) .b x.number x.messageB

/-- The cycle is accepted: its status field takes effect, then its positions are handed on, unless the
link has gone DOWN (R12; log entry 11). -/
def acceptCycle (order : ChannelOrder) (p : PendingCheck) (s : State) : State :=
  let flags := p.cycle.flags
  let v := p.cycle.number
  let s := linkAccepts order flags v
    (passBank flags p.cycle.reference (compareNumber v p.localCycle (storeFlags flags s)))
  if s.framer.framed then handPositions p.cycle s else s

/-- The decision at received frame 11 (R12, R13). -/
def decideCycle (order : ChannelOrder) (s : State) : State :=
  match s.framer.pendingCheck with
  | none => s
  | some p =>
    if p.check = s.framer.receiving.checkField || s.framer.checkBlind then acceptCycle order p s
    else rejectCycle s

/-- Received frame 11 is complete: the decision, then the cycle's own value is pending (R11, R12). -/
def endReceivedCycle (order : ChannelOrder) (s : State) : State :=
  let t := decideCycle order s
  if t.framer.framed then
    { t with framer := { t.framer with
      pendingCheck := some ⟨s.framer.inCheck, s.framer.receiving, t.framer.cycle⟩
      firstCycle := false } }
  else t

/-- A frame read at its expected place (R5): gathered, handed over, the status field's number taken
provisionally, and after frame 11 the decision. -/
def readFrame (order : ChannelOrder) (payload : Payload) (service : Byte) (s : State) : State :=
  let t := adoptProvisionally service (handOver order payload (gatherFrame payload service s))
  advanceDue (if s.framer.dueFrame.val = 11 then endReceivedCycle order t else t)

/-! ## Alignment (R6, R32, R34, R38, R39) -/

/-- Alignment lost in ALIGNING: no longer framed, the check pending absent; the Follow end stops sending
and hunts anew (R32). An outbound frame in progress there is cut off at once; R32 does not say whether it is
completed. DESIGN CHOICE, log entry 29. -/
def loseFraming (s : State) : State :=
  let f := { s.framer with
    framed := false, pendingCheck := none, badRun := 0, goodRun := 0, firstCycle := false, hunt := 0 }
  { s with framer :=
    if s.framer.role = .follow then
      { f with line := .quiet, outCheck := none, lastCheck := checkStart, cycleOpen := false }
    else f }

/-- A place in RESYNC: counted, and either alignment is regained, the limit is reached, or RESYNC goes
on (R6, R39). On the return to UP the leaving rules are applied and the regaining frame is read. -/
def resyncPlace (order : ChannelOrder) (regained : Bool) (payload : Payload) (service : Byte)
    (s : State) : State :=
  let count := s.link.resyncCount.getD 0 + 1
  if regained then
    readFrame order payload service
      (leaveIfUnwanted { s with link := { s.link with state := .up, resyncCount := none } })
  else if 40 ≤ count then resyncLost order s
  else advanceDue { s with link := { s.link with resyncCount := some count } }

/-- Alignment lost, by the link state: RESYNC from UP, a failed try in SYNCED, a new search in ALIGNING;
in LEAVING it is disregarded and the frame is read (R32, R34, R37, R38). -/
def alignmentLost (order : ChannelOrder) (payload : Payload) (service : Byte) (s : State) : State :=
  match s.link.state with
  | .up => advanceDue (enterResync s)
  | .synced => failTry order (some .lost) s
  | .aligning => loseFraming s
  | _ => readFrame order payload service s

/-- The received frame at its expected place (R5, R6). -/
def receivePlace (order : ChannelOrder) (marker : Byte) (payload : Payload) (service : Byte)
    (s : State) : State :=
  let f := s.framer.dueFrame
  let good := marker == markerOf f
  let t := judgeMarker good (if f.val = 0 then openReceived s else s)
  if s.link.state = .resync then
    resyncPlace order (good && f.val == 0 && s.framer.goodRun == 2) payload service t
  else if t.framer.badRun = 3 then alignmentLost order payload service t
  else readFrame order payload service t

/-- At the Follow end the outbound frame of the same number begins with the received frame, so it has
begun before the received one is complete (R4; log entry 9). -/
def catchUp (order : ChannelOrder) (s : State) : State :=
  if s.framer.role == .follow && frameMayStart s then startFrame order s else s

/-- RECEIVED_FRAME: read when the receive side is framed (R2, R5; log entry 4). -/
def execReceivedFrame (marker : Byte) (payload : Payload) (service : Byte) (order : ChannelOrder)
    (s : State) : Host.Outcome State Fault Refusal :=
  .next (if s.framer.framed then
      let t := catchUp order s
      if t.framer.framed then receivePlace order marker payload service t else t
    else s)

/-! ## The hunt (R30, R31) -/

/-- The receive side is framed from a cycle marker, the marker of the frame 0 now due (R2, R31). -/
def frameFromMarker (s : State) : State :=
  { s with framer := { s.framer with framed := true, dueFrame := 0, badRun := 0, goodRun := 0, hunt := 0 } }

/-- The Follow end's hunt completes: its outbound frame 0 begins with the received one, a cycle start
that keeps the number held (R4, R31); its counts come before the boundary of position A (log entry 5). -/
def completeHunt (s : State) : State :=
  let s := frameFromMarker s
  beginFrame [] 0 (countCycleStart { s with framer := { s.framer with firstCycle := true, outFrame := 0 } })

def setHunt (s : State) (n : Nat) : State := { s with framer := { s.framer with hunt := n } }

/-- A byte at a place of the hunt (R31): frame markers count up to eleven, a twelfth starts the run over
as its first; a cycle marker after at least four completes it; anything else, or no byte there, starts
over. -/
def huntStep (found : Option Byte) (s : State) : State :=
  if found = some frameMarker then setHunt s (if s.framer.hunt = 11 then 1 else s.framer.hunt + 1)
  else if found = some cycleMarker && 4 ≤ s.framer.hunt then completeHunt s
  else setHunt s 0

/-- The Follow end's hunt over the bits that follow the byte looked at last (R31, R183): with no marker
counted it takes the first byte found; within a run the place where the next marker is due, one frame period
after the marker before. A place that the bits do not reach is not looked at yet (log entry 21). -/
def huntLine (bits : List Bool) (s : State) : State :=
  if s.framer.hunt = 0 then
    match findByte bits with
    | some b => huntStep (some b) s
    | none => s
  else if bits.length < frameBitTimes then s
  else huntStep (byteAt (frameBitTimes - 8) bits) s

/-- The Clock end's search over the line: framed from the first cycle marker found (R30, R183). -/
def searchLine (bits : List Bool) (s : State) : State :=
  if findByte bits = some cycleMarker then frameFromMarker s else s

/-- HUNT_MARKER: in ALIGNING, while the receive side is not framed (R30, R31, R183; log entry 21). -/
def execHuntMarker (bits : List Bool) (s : State) : Host.Outcome State Fault Refusal :=
  .next (if s.link.state == .aligning && !s.framer.framed then
      match s.framer.role with
      | .clock => searchLine bits s
      | .follow => huntLine bits s
    else s)

end Sys2Proof.Machine
end

