-- ==== Sys2Proof/Machine/Ports.lean ====
section
/-! DEFINITION. The client ports: the transactions on COMMAND, PARAMETER, EVENTS and MASK and those that
meet no target (R155 to R158, R162, R163, R168, R172), SETTINGS (R165, R166), PORT RESET (R169), a code
that names no command (R160) and power-on reset (R170). -/

namespace Sys2Proof.Machine

open Sys2Proof

/-! ## Transactions -/

/-- A code written to the command slot (R157, R168). -/
def PortState.writeCode (q : PortState) (code : Byte) : PortState :=
  if q.command = .pending then
    if code = portResetCode then { q with code := code } else q.raise .cmdOverrun
  else { q with command := .pending, code := code }

/-- COMMAND_WRITE: the first data byte is the code; without one nothing is done (R155 to R157). -/
def execCommandWrite (p : Port) (data : List Byte) (s : State) : Host.Outcome State Fault Refusal :=
  .next (transact p (writeHeader .command) (fun s =>
    match data with
    | [] => s
    | code :: _ => s.setPort p ((s.port p).writeCode code)) s)

/-- Bytes stored from an offset upward; those beyond offset 23 are discarded (R156). -/
def storeBytes : Nat → List Byte → Vector Byte 24 → Vector Byte 24
  | _, [], v => v
  | n, b :: bs, v => if h : n < 24 then storeBytes (n + 1) bs (v.set n b) else v

/-- Data bytes written to the parameter block (R158). -/
def PortState.writeParameters (q : PortState) (offset : Byte) (data : List Byte) : PortState :=
  if data.isEmpty then q
  else if q.command = .pending then q.raise .cmdOverrun
  else { q with parameters := storeBytes offset.toNat data q.parameters }

/-- PARAMETER_WRITE (R155, R156, R158, R172). -/
def execParameterWrite (p : Port) (offset : Byte) (data : List Byte) (s : State) :
    Host.Outcome State Fault Refusal :=
  .next (transact p (writeHeader .parameter)
    (fun s => s.setPort p ((s.port p).writeParameters offset data)) s)

/-- EVENTS_WRITE: the two bytes are applied together; a one clears its event (R162). -/
def execEventsWrite (p : Port) (data : List Byte) (s : State) : Host.Outcome State Fault Refusal :=
  .next (transact p (writeHeader .events) (fun s =>
    match data with
    | lo :: hi :: _ => s.setPort p { s.port p with events := (s.port p).events &&& ~~~wordOf lo hi }
    | _ => s) s)

/-- MASK_WRITE: the two bytes replace the mask together; bits 14 and 15 are disregarded (R163, R172). -/
def execMaskWrite (p : Port) (data : List Byte) (s : State) : Host.Outcome State Fault Refusal :=
  .next (transact p (writeHeader .mask) (fun s =>
    match data with
    | lo :: hi :: _ => s.setPort p { s.port p with mask := wordOf lo hi &&& eventBits }
    | _ => s) s)

/-- NO_TARGET_ACCESS: ACCESS is raised, written bytes are discarded and read bytes are 0x00; a write to
RESULT that ends before its offset byte does nothing, and a header that names a window is another row's
(R155, R156, R172; log entries 4 and 18). -/
def execNoTargetAccess (p : Port) (header : Byte) (data : List Byte) (s : State) :
    Host.Outcome State Fault Refusal :=
  .next (if meetsNoTarget header then
      transact p header
        (fun s => if writesResult header && data.isEmpty then s else s.raise p .access) s
    else s)

/-! ## SETTINGS (R165, R166) -/

/-- The engine takes a SETTINGS command that stands for the row of one operation: its operation byte is
that operation's, or names none, which both rows refuse alike (log entry 8). -/
def takesSettings (s : State) (p : Port) (operation : Byte) : Bool :=
  engineTakes s p 0x60#8 && (param (s.port p) 0 == operation || 2 ≤ (param (s.port p) 0).toNat)

/-- The five settings as a result (R165, R175). -/
def settingsResult (x : Settings) : List Byte :=
  [modeField x.mode, filterField x.filter, portNumber x.servicePort, flagField x.autoAnswer]
    ++ field16 x.peerWritable

/-- SETTINGS with operation READ (R165). -/
def settingsRead (p : Port) (s : State) : Reply × State :=
  if param (s.port p) 0 ≠ 0#8 then (.refuse .badParam, s) else (.done (settingsResult s.settings), s)

/-- SETTINGS, READ. -/
def execSettingsRead (p : Port) (s : State) : Host.Outcome State Fault Refusal :=
  takeCommand (takesSettings s p 0#8) p (settingsRead p) s

/-- The five settings that a parameter block names, when each is in range; the auto-answer byte is a flag,
set when it is not 0 (R165, R174, R175; log entry 14). -/
def settingsOf (q : PortState) : Option Settings :=
  match mode? (param q 1), filter? (param q 2), port? (param q 3) with
  | some m, some f, some p => some ⟨m, f, p, flagParam (param q 4), param16 q 5⟩
  | _, _, _ => none

/-- The settings replaced together, with what follows in the same step: a change of service port empties
the report queue, and auto-answer turned on answers a WAKE being heard (R165, R166). -/
def replaceSettings (x : Settings) (s : State) : State :=
  let t := { s with settings := x }
  let t := if s.settings.servicePort ≠ x.servicePort then clearReports t else t
  if !s.settings.autoAnswer && x.autoAnswer then answerIfWilling t else t

/-- SETTINGS with operation WRITE (R165). -/
def settingsWrite (p : Port) (s : State) : Reply × State :=
  if param (s.port p) 0 ≠ 1#8 then (.refuse .badParam, s)
  else if s.link.state ≠ .down then (.refuse .linkBusy, s)
  else
    match settingsOf (s.port p) with
    | none => (.refuse .badParam, s)
    | some x => (.done (settingsResult x), replaceSettings x s)

/-- SETTINGS, WRITE. -/
def execSettingsWrite (p : Port) (s : State) : Host.Outcome State Fault Refusal :=
  takeCommand (takesSettings s p 1#8) p (settingsWrite p) s

/-! ## PORT RESET (R121, R169) -/

/-- Every open channel the port owns is closed, its orders discarded (R121). -/
def closeOwned (p : Port) (s : State) : State :=
  (List.finRange 8).foldl
    (fun s c => if (s.channel c).isOpen && (s.channel c).owner == some p then discardChannel s c else s) s

/-- Every area the port holds becomes UNDEFINED (R113). -/
def dropHeld (p : Port) (s : State) : State :=
  (List.finRange 10).foldl
    (fun s n => if (s.area n).holder = some p then s.setArea n Area.undefined else s) s

/-- The port's own items that PORT RESET empties: watches, changed set, completion queue, order count,
events and mask (R169, steps 3 to 5). -/
def PortState.cleared (q : PortState) : PortState :=
  { q with watch := 0#16, changed := 0#16, completions := [], orderCount := 0, events := 0#16, mask := 0#16 }

/-- PORT RESET's steps 1 to 5 (R169). -/
def resetPort (p : Port) (s : State) : State :=
  let s := removeClaim p (dropHeld p (closeOwned p s))
  let s := if s.settings.servicePort = p then clearReports s else s
  s.setPort p (s.port p).cleared

/-- PORT RESET. -/
def execPortReset (p : Port) (s : State) : Host.Outcome State Fault Refusal :=
  takeCommand (engineTakes s p portResetCode) p (fun s => (.done [], resetPort p s)) s

/-- The engine's next take is a code that names no command (R160, R175). -/
def takesUnknown (s : State) (p : Port) : Bool :=
  s.nextTaken == some p && !commandCodes.contains (s.port p).code

/-- A code that names no command completes FAILED with UNKNOWN (R160). -/
def execUnknownCommand (p : Port) (s : State) : Host.Outcome State Fault Refusal :=
  takeCommand (takesUnknown s p) p (fun s => (.refuse .unknown, s)) s

/-! ## Power-on reset (R22, R170) -/

/-- The role that the level of the ROLE pin gives (R22). -/
def roleOfPin (high : Bool) : Role := if high then .clock else .follow

/-- A port whose SELn is low as RESET_N rises disregards that transaction to its end (R170). -/
def PortState.released (selected : Bool) (q : PortState) : PortState :=
  if selected then { q with transaction := .disregarded } else q

/-- The ports as RESET_N rises, `selected` listing those whose SELn is low (R170). -/
def releasedPorts (selected : List Port) (x : PerPort PortState) : PerPort PortState :=
  ⟨x.p1.released (selected.contains .p1), x.p2.released (selected.contains .p2),
    x.p3.released (selected.contains .p3)⟩

/-- POWER_ON_RESET: every block takes its values after power-on reset, a transaction in progress is cut off,
and ROLE is sampled. The queue of waiting steps and the count of free bytes are the model's own and are
kept. -/
def execPowerOnReset (pins : ResetPins) (s : State) : Host.Outcome State Fault Refusal :=
  let t := State.afterReset (roleOfPin pins.roleHigh)
  .next { t with
    ports := releasedPorts pins.selected t.ports, pending := s.pending, freeNext := s.freeNext }

end Sys2Proof.Machine
end

