-- ==== Sys2Proof/Machine/Dispatch.lean ====
section
/-! DEFINITION. The meaning of each step of the table. -/

namespace Sys2Proof.Machine

open Sys2Proof

def exec (i : Instr) (s : State) : Host.Outcome State Fault Refusal :=
  match i with
  | .linkUp p => Sys2Proof.Machine.execLinkUp p s
  | .linkDown p => Sys2Proof.Machine.execLinkDown p s
  | .linkStatus p => Sys2Proof.Machine.execLinkStatus p s
  | .counters p => Sys2Proof.Machine.execCounters p s
  | .sendService p => Sys2Proof.Machine.execSendService p s
  | .sendServiceAnswer p => Sys2Proof.Machine.execSendServiceAnswer p s
  | .takeReport p => Sys2Proof.Machine.execTakeReport p s
  | .maintLoopAll p => Sys2Proof.Machine.execMaintLoopAll p s
  | .maintLoopSlot p => Sys2Proof.Machine.execMaintLoopSlot p s
  | .maintLoopClear p => Sys2Proof.Machine.execMaintLoopClear p s
  | .maintBadChecksOn p => Sys2Proof.Machine.execMaintBadChecksOn p s
  | .maintBadChecksOff p => Sys2Proof.Machine.execMaintBadChecksOff p s
  | .maintBlindOn p => Sys2Proof.Machine.execMaintBlindOn p s
  | .maintBlindOff p => Sys2Proof.Machine.execMaintBlindOff p s
  | .maintClearAll p => Sys2Proof.Machine.execMaintClearAll p s
  | .slotAssign p => Sys2Proof.Machine.execSlotAssign p s
  | .slotFree p => Sys2Proof.Machine.execSlotFree p s
  | .planRead p => Sys2Proof.Machine.execPlanRead p s
  | .planSwitch p => Sys2Proof.Machine.execPlanSwitch p s
  | .planWithdraw p => Sys2Proof.Machine.execPlanWithdraw p s
  | .planStatus p => Sys2Proof.Machine.execPlanStatus p s
  | .shapeArea p => Sys2Proof.Machine.execShapeArea p s
  | .dropArea p => Sys2Proof.Machine.execDropArea p s
  | .clearArea p => Sys2Proof.Machine.execClearArea p s
  | .areaStatus p => Sys2Proof.Machine.execAreaStatus p s
  | .openChannel p => Sys2Proof.Machine.execOpenChannel p s
  | .closeChannel p => Sys2Proof.Machine.execCloseChannel p s
  | .postOrder p => Sys2Proof.Machine.execPostOrder p s
  | .abortCurrent p => Sys2Proof.Machine.execAbortCurrent p s
  | .abortAll p => Sys2Proof.Machine.execAbortAll p s
  | .resume p => Sys2Proof.Machine.execResume p s
  | .channelStatus p => Sys2Proof.Machine.execChannelStatus p s
  | .takeCompletion p => Sys2Proof.Machine.execTakeCompletion p s
  | .cellRead p => Sys2Proof.Machine.execCellRead p s
  | .cellSet p => Sys2Proof.Machine.execCellSet p s
  | .cellExchange p => Sys2Proof.Machine.execCellExchange p s
  | .cellAdd p => Sys2Proof.Machine.execCellAdd p s
  | .cellTake p => Sys2Proof.Machine.execCellTake p s
  | .cellTestClear p => Sys2Proof.Machine.execCellTestClear p s
  | .cellSetBit p => Sys2Proof.Machine.execCellSetBit p s
  | .cellWatch p => Sys2Proof.Machine.execCellWatch p s
  | .cellsChanged p => Sys2Proof.Machine.execCellsChanged p s
  | .settingsRead p => Sys2Proof.Machine.execSettingsRead p s
  | .settingsWrite p => Sys2Proof.Machine.execSettingsWrite p s
  | .portReset p => Sys2Proof.Machine.execPortReset p s
  | .unknownCommand p => Sys2Proof.Machine.execUnknownCommand p s
  | .commandWrite p data => Sys2Proof.Machine.execCommandWrite p data s
  | .parameterWrite p offset data => Sys2Proof.Machine.execParameterWrite p offset data s
  | .eventsWrite p data => Sys2Proof.Machine.execEventsWrite p data s
  | .maskWrite p data => Sys2Proof.Machine.execMaskWrite p data s
  | .noTargetAccess p header data => Sys2Proof.Machine.execNoTargetAccess p header data s
  | .dataWindowWrite p c b => Sys2Proof.Machine.execDataWindowWrite p c b s
  | .dataWindowRead p c => Sys2Proof.Machine.execDataWindowRead p c s
  | .powerOnReset pins => Sys2Proof.Machine.execPowerOnReset pins s
  | .outboundFrameStart order => Sys2Proof.Machine.execOutboundFrameStart order s
  | .receivedFrame marker payload service order => Sys2Proof.Machine.execReceivedFrame marker payload service order s
  | .huntMarker bits => Sys2Proof.Machine.execHuntMarker bits s
  | .wakeHeard => Sys2Proof.Machine.execWakeHeard s
  | .wakeGone => Sys2Proof.Machine.execWakeGone s
  | .answerHeard => Sys2Proof.Machine.execAnswerHeard s
  | .answerGone => Sys2Proof.Machine.execAnswerGone s
  | .quietGuardExpiry => Sys2Proof.Machine.execQuietGuardExpiry s
  | .tryTimerExpiry => Sys2Proof.Machine.execTryTimerExpiry s
  | .wakeToneTimerExpiry order => Sys2Proof.Machine.execWakeToneTimerExpiry order s
  | .answerToneTimerExpiry => Sys2Proof.Machine.execAnswerToneTimerExpiry s
  | .alignTimerExpiry order => Sys2Proof.Machine.execAlignTimerExpiry order s
  | .readyWaitExpiry order => Sys2Proof.Machine.execReadyWaitExpiry order s
  | .resyncLimit order => Sys2Proof.Machine.execResyncLimit order s
  | .leavingComplete order => Sys2Proof.Machine.execLeavingComplete order s
  | .planTimeout => Sys2Proof.Machine.execPlanTimeout s
  | .badChecksStartExpiry => Sys2Proof.Machine.execBadChecksStartExpiry s
  | .planSwap order => Sys2Proof.Machine.execPlanSwap order s
  | .bankAdoption order => Sys2Proof.Machine.execBankAdoption order s

end Sys2Proof.Machine
end

