-- ==== Sys2Proof/Machine/Step.lean ====
section
/-! DEFINITION. One step of the block: the step at the front of the queue is taken. -/

namespace Sys2Proof.Machine

open Sys2Proof

/-- The front of the queue is taken off and run on the rest. With nothing waiting the block idles: the
manual states no behaviour in clock cycles (00_scope.md, Time), and every step comes from outside
(log entry 6). -/
def step (s : State) : Host.Outcome State Fault Refusal :=
  match s.pending with
  | [] => .next s
  | i :: rest => exec i { s with pending := rest }

/-- `s` with the step that a word spells put at the front of its queue; no row of the table gives bits, so
no word spells one. -/
def State.withFetchWord (s : State) (nbits w : Nat) : State :=
  match decodeTableWord nbits w with
  | some i => { s with pending := i :: s.pending }
  | none => s

end Sys2Proof.Machine
end

