-- ==== Sys2Proof/WellFormed.lean ====
section
/-! DEFINITION. Which terms of `Instr` spell a step of the part: the operands that a type cannot
hold to the manual. -/

namespace Sys2Proof

/-- A channel order names each of the eight channels once (R132, R138: each channel's step of the
frame is taken once, in some order). -/
def ChannelOrder.wellFormed (order : ChannelOrder) : Bool :=
  order.length == 8 && (List.finRange 8).all fun c => order.contains c

/-- The access header meets no target (R156, R172): a bit among 6 to 4 is set, the window number is
14 or 15, or it writes STATUS or RESULT, or it reads COMMAND. -/
def headerMeetsNoTarget (header : Byte) : Bool :=
  header &&& 0x70#8 != 0#8 || header &&& 0x0F#8 == 14#8 || header &&& 0x0F#8 == 15#8
    || header == 0x01#8 || header == 0x03#8 || header == 0x80#8

/-- The well-formed steps. -/
def Instr.wellFormed : Instr → Bool
  | .commandWrite _ data => !data.isEmpty
  | .parameterWrite _ _ data => !data.isEmpty
  | .noTargetAccess _ header _ => headerMeetsNoTarget header
  | .outboundFrameStart order => order.wellFormed
  | .receivedFrame _ _ _ order => order.wellFormed
  | .wakeToneTimerExpiry order => order.wellFormed
  | .alignTimerExpiry order => order.wellFormed
  | .readyWaitExpiry order => order.wellFormed
  | .resyncLimit order => order.wellFormed
  | .leavingComplete order => order.wellFormed
  | .planSwap order => order.wellFormed
  | .bankAdoption order => order.wellFormed
  | .linkUp _ | .linkDown _ | .linkStatus _ | .counters _ | .sendService _ | .sendServiceAnswer _
  | .takeReport _ | .maintLoopAll _ | .maintLoopSlot _ | .maintLoopClear _ | .maintBadChecksOn _
  | .maintBadChecksOff _ | .maintBlindOn _ | .maintBlindOff _ | .maintClearAll _ | .slotAssign _
  | .slotFree _ | .planRead _ | .planSwitch _ | .planWithdraw _ | .planStatus _ | .shapeArea _
  | .dropArea _ | .clearArea _ | .areaStatus _ | .openChannel _ | .closeChannel _ | .postOrder _
  | .abortCurrent _ | .abortAll _ | .resume _ | .channelStatus _ | .takeCompletion _ | .cellRead _
  | .cellSet _ | .cellExchange _ | .cellAdd _ | .cellTake _ | .cellTestClear _ | .cellSetBit _
  | .cellWatch _ | .cellsChanged _ | .settingsRead _ | .settingsWrite _ | .portReset _
  | .unknownCommand _ | .eventsWrite _ _ | .maskWrite _ _ | .dataWindowWrite ..
  | .dataWindowRead .. | .powerOnReset .. | .huntMarker _ | .wakeHeard | .wakeGone | .answerHeard
  | .answerGone | .quietGuardExpiry | .tryTimerExpiry | .answerToneTimerExpiry | .planTimeout
  | .badChecksStartExpiry => true

end Sys2Proof
end

