-- ==== Sys2Proof/Safety.lean ====
section
/-! DEFINITION. What the statements speak of: how a command answers, and the invariants that every step
keeps. -/

namespace Sys2Proof.Machine

open Sys2Proof

/-! ## Answers -/

/-- A command answers with a refusal code and changes nothing but its own completion (R160). -/
def refusedWith (p : Port) (code : ResultCode) (s : State) : Host.Outcome State Fault Refusal :=
  .next (complete p (Reply.refuse code) s)

/-- A command answers DONE with results, having taken the part to `t` (R160). -/
def doneWith (p : Port) (results : List Byte) (t : State) : Host.Outcome State Fault Refusal :=
  .next (complete p (Reply.done results) t)

/-! ## Invariants -/

/-- The pool is in its canonical form (log entry 7). -/
def PoolCanonical (s : State) : Prop := Memory.wf s.pool

/-- Bits 14 and 15 of a port's event set and mask are clear (R161, R172). -/
def PortState.eventsInRange (q : PortState) : Prop :=
  q.events &&& eventBits = q.events ∧ q.mask &&& eventBits = q.mask

/-- Every port's event set and mask hold the fourteen events only. -/
def EventsInRange (s : State) : Prop := ∀ p : Port, (s.port p).eventsInRange

/-- A cell whose waiter list is not empty holds 0 (R149). -/
def GatesShut (s : State) : Prop := ∀ k : CellNo, (s.cell k).value ≠ 0#16 → (s.cell k).waiters = []

/-- An area record is a ring in range: undefined and empty, or a block range of the pool with its
positions and fill level as R101 to R103 have them. -/
def Area.ringInRange (a : Area) : Prop :=
  match a.first, a.count with
  | none, none => a.readPos = 0 ∧ a.writePos = 0 ∧ a.fill = 0
  | some f, some n =>
    1 ≤ n ∧ f + n ≤ 256 ∧ a.readPos < a.size ∧ a.fill ≤ a.size
      ∧ a.writePos = (a.readPos + a.fill) % a.size
  | _, _ => False

/-- Every area is a ring in range. -/
def RingsInRange (s : State) : Prop := ∀ n : AreaNo, (s.area n).ringInRange

/-- An absent count, or one of at most `n`. -/
def atMost (n : Nat) (x : Option Nat) : Prop := ∀ k, x = some k → k ≤ n

/-- The counts of the link controller stay in the ranges of R23. -/
def Link.inRange (l : Link) : Prop :=
  l.tryCount ≤ 5 ∧ atMost 50 l.readyWait ∧ atMost 40 l.resyncCount ∧ atMost 4 l.leavingCount

/-- The runs of the framer stay in the ranges of R6, R19 and R31. -/
def Framer.inRange (x : Framer) : Prop :=
  x.badRun ≤ 3 ∧ x.goodRun ≤ 2 ∧ x.disagreeRun ≤ 1 ∧ x.hunt ≤ 11

/-- The queues and runs of the service channel stay in the ranges of R45. -/
def Service.inRange (v : Service) : Prop :=
  v.origin.length ≤ 4 ∧ v.await.length ≤ 4 ∧ v.reports.length ≤ 8 ∧ atMost 4 v.badStart
    ∧ ∀ r, v.look = some r → 1 ≤ r.length ∧ r.length ≤ 3

/-- The counts of the plan exchange stay in the ranges of R81. -/
def Exchange.inRange (x : Exchange) : Prop := x.count ≤ 48 ∧ x.mismatchRun ≤ 2

/-- Every count that the manual gives a range stays in it (R6, R19, R23, R31, R45, R81, R115). The bad-checks
start may stand at 4 within a cycle start that has counted it, by the model's `cycleOpen`, where R45 gives 0
to 3 (log entry 5). -/
def CountsInRange (s : State) : Prop :=
  s.link.inRange ∧ s.framer.inRange ∧ s.service.inRange ∧ s.exchange.inRange
    ∧ ∀ c : ChannelNo, (s.channel c).queue.length ≤ 4

/-- A CLOSED channel's record is absent throughout, and each port's order count is the number of orders in the
queues of its channels; with the records in its completion queue it is at most 16 (R114, R117, R164). -/
def OrdersCounted (s : State) : Prop :=
  (∀ c : ChannelNo, (s.channel c).state = .closed → s.channel c = Channel.closed)
  ∧ ∀ p : Port,
    (s.port p).orderCount = ((List.finRange 8).map fun c =>
      if (s.channel c).owner = some p then (s.channel c).queue.length else 0).sum
    ∧ (s.port p).orderCount + (s.port p).completions.length ≤ 16

/-- A channel stands in a cell's waiter list, once, exactly while it is WAITING and its current order names
the cell as its gate; a WAITING channel's current order names one (R123, R142, R148). -/
def WaitersMatch (s : State) : Prop :=
  (∀ k : CellNo, (s.cell k).waiters.Nodup)
  ∧ (∀ (k : CellNo) (c : ChannelNo), c ∈ (s.cell k).waiters ↔
    (s.channel c).state = .waiting ∧ (s.channel c).queue.head?.bind Order.gate = some k)
  ∧ ∀ c : ChannelNo, (s.channel c).state = .waiting →
    ((s.channel c).queue.head?.bind Order.gate).isSome

/-- SDOn carries a byte exactly while the port takes a transaction: it is high-impedance while SELn is high,
and in a transaction that the port disregards (R155, R170; log entry 27). -/
def SdoFollowsSelect (s : State) : Prop :=
  ∀ p : Port, (s.port p).sdo.isSome ↔ ∃ header, (s.port p).transaction = .taken header

/-- What the framer holds in the link states that carry no traffic (R2, R15, R16, R20): at rest no
framing, no check pending, no status flags accepted, and, in ALIGNING as well, both counters 0. -/
def FramerFollowsLink (s : State) : Prop :=
  (s.link.state.resting = true →
    s.framer.framed = false ∧ s.framer.pendingCheck = none ∧ s.framer.peerFlags = 0#8)
  ∧ (s.link.state.resting = true ∨ s.link.state = .aligning →
    s.framer.nearEnd = 0#8 ∧ s.framer.farEnd = 0#8)

end Sys2Proof.Machine
end

