-- ==== Sys2Proof/Certificates/Slice0/Obligations.lean ====
section
/-! DEFINITION. The statements for the provers, in the order of OBLIGATIONS.json. -/

open Sys2Proof Sys2Proof.Machine

/-! ## The machine as a whole -/

/-- A step takes the front of the queue and runs it on the rest; with nothing waiting the part idles
(log entry 6). -/
def Obligations.StepRunsFrontOfQueue : Prop :=
  (∀ (i : Instr) (rest : List Instr) (s : State),
    step { s with pending := i :: rest } = exec i { s with pending := rest }) ∧
  (∀ s : State, s.pending = [] → step s = .next s)

/-- Every step of the table answers a next state, in every state, and leaves the queue as it is. That a row
without its occasion answers the same state is the model's choice (log entry 4), and the queue its own form
(log entry 6). -/
def Obligations.EveryStepAnswersNext : Prop :=
  ∀ (i : Instr) (s : State), ∃ t, exec i s = .next t ∧ t.pending = s.pending

/-- What power-on reset leaves, block by block; the role is the level of the ROLE pin, whatever the state
was (R21, R22, R23, R45, R67, R69, R79, R81, R102, R114, R142, R159, R165, R170). A port whose SELn is low
as RESET_N rises disregards that transaction. Every SDOn is high-impedance; that it is so in a disregarded
transaction as well is the model's reading (log entry 27); that the queue of waiting steps is kept (log entry 6)
and that no inbound table is retained (log entry 30) is the model's own form. -/
def Obligations.PowerOnResetValues : Prop :=
  ∀ (pins : ResetPins) (s : State), ∃ t, exec (.powerOnReset pins) s = .next t ∧
    (t.framer.role = if pins.roleHigh then .clock else .follow) ∧
    t.framer.line = .quiet ∧ t.framer.framed = false ∧ t.framer.cycle = 0#8 ∧ t.framer.outFrame = 0 ∧
    t.framer.nearEnd = 0#8 ∧ t.framer.farEnd = 0#8 ∧ t.framer.pendingCheck = none ∧
    t.framer.badRun = 0 ∧ t.framer.disagreeRun = 0 ∧ t.framer.peerFlags = 0#8 ∧
    t.framer.farErrorToSend = false ∧ t.framer.badChecks = false ∧ t.framer.checkBlind = false ∧
    t.link.state = .down ∧ t.link.claims = ⟨false, false, false⟩ ∧ t.link.tryCount = 0 ∧
    t.link.quietGuard = false ∧ t.link.tryTimer = false ∧ t.link.toneTimer = none ∧
    t.link.alignTimer = false ∧ t.link.readyWait = none ∧ t.link.resyncCount = none ∧
    t.link.leavingCount = none ∧ t.link.peerDemand = false ∧ t.link.peerReady = false ∧
    t.link.lastFailure = .none ∧
    t.service.slot = ⟨0#4, .order, 0#8, 0#16⟩ ∧ t.service.hold = 0 ∧ t.service.answer = none ∧
    t.service.origin = [] ∧ t.service.await = [] ∧ t.service.look = none ∧
    t.service.lastConfirmed = none ∧ t.service.previous = none ∧ t.service.reports = [] ∧
    t.service.overflow = false ∧ (∀ i : SlotNo, t.service.loopSet[i.val] = false) ∧
    t.service.badStart = none ∧
    t.settings = ⟨.auto, .confirmed, .p1, true, 0#16⟩ ∧
    (∀ (b : Bank) (d : Direction) (i : SlotNo), ((t.plan.bank b).table d)[i.val] = none) ∧
    t.plan.active = .b0 ∧ t.plan.receive = .b0 ∧ t.plan.retained = none ∧
    (∀ c : ChannelNo, t.plan.pendingClear[c.val] = false) ∧
    t.exchange = ⟨.idle, none, none, none, none, none, none, 0, 0, false, none, none⟩ ∧
    (∀ n : AreaNo, t.area n = ⟨.undefined, none, none, none, 0, 0, 0, none⟩) ∧
    (∀ c : ChannelNo, t.channel c = ⟨.closed, none, none, none, [], none, false⟩) ∧
    (∀ k : CellNo, t.cell k = ⟨0#16, []⟩) ∧ t.lastServed = .p3 ∧
    (∀ p : Port,
      (t.port p).command = .idle ∧ (t.port p).code = 0#8 ∧ (t.port p).resultCode = .done ∧
      (∀ i : Fin 24, (t.port p).parameters[i.val] = 0#8 ∧ (t.port p).result[i.val] = 0#8) ∧
      (t.port p).events = 0#16 ∧ (t.port p).mask = 0#16 ∧ (t.port p).completions = [] ∧
      (t.port p).orderCount = 0 ∧ (t.port p).watch = 0#16 ∧ (t.port p).changed = 0#16 ∧
      (t.port p).interruptAsserted = false ∧ (t.port p).sdo = none ∧
      (t.port p).transaction = if p ∈ pins.selected then .disregarded else .off) ∧
    t.pending = s.pending

/-! ## Invariants -/

/-- The buffer pool keeps its canonical form through every step (log entry 7). -/
def Obligations.PoolStaysCanonical : Prop :=
  ∀ s t : State, PoolCanonical s → step s = .next t → PoolCanonical t

/-- The event sets and masks keep to the fourteen events through every step (R161, R172). -/
def Obligations.EventsStayInRange : Prop :=
  ∀ s t : State, EventsInRange s → step s = .next t → EventsInRange t

/-- At the end of every step a cell with waiters holds 0 (R149). -/
def Obligations.GatesStayShut : Prop :=
  ∀ s t : State, GatesShut s → step s = .next t → GatesShut t

/-- Every area stays a ring inside the pool through every step (R101, R103). -/
def Obligations.RingsStayInRange : Prop :=
  ∀ s t : State, RingsInRange s → step s = .next t → RingsInRange t

/-- Every count and queue keeps to its range through every step (R6, R19, R23, R31, R45, R81, R115); each port's
order count is that of its channels' orders and leaves room for their records (R117, R164); and the waiter
lists hold the WAITING channels, each once, on the cell its order names (R142, R148). That the bad-checks
start may stand at 4, where R45 gives 0 to 3, is the model's form of a cycle start (log entry 5). -/
def Obligations.CountsStayInRange : Prop :=
  (∀ s t : State, CountsInRange s → step s = .next t → CountsInRange t) ∧
  (∀ s t : State, OrdersCounted s → step s = .next t → OrdersCounted t) ∧
  (∀ s t : State, WaitersMatch s → step s = .next t → WaitersMatch t)

/-- At rest the framer is not framed and holds no received flags, and its counters are 0 until SYNCED,
through every step (R2, R15, R16, R20). -/
def Obligations.FramerKeepsToLink : Prop :=
  ∀ s t : State, FramerFollowsLink s → step s = .next t → FramerFollowsLink t

/-- The invariants hold right after reset, which is the Clock end's power-on state with nothing waiting and no
port selected: the model's choice of the pins' levels is log entry 1. -/
def Obligations.InvariantsHoldAtReset : Prop :=
  (∀ s : State, s.pending = [] → s.freeNext = 0 →
    exec (.powerOnReset ⟨true, []⟩) s = .next State.reset) ∧
  PoolCanonical State.reset ∧ EventsInRange State.reset ∧ GatesShut State.reset ∧
  RingsInRange State.reset ∧ CountsInRange State.reset ∧ FramerFollowsLink State.reset ∧
  OrdersCounted State.reset ∧ WaitersMatch State.reset ∧ SdoFollowsSelect State.reset

/-! ## The command engine -/

/-- The engine takes the first PENDING slot in the rotation that starts after the last port served, and
waits when none is PENDING; the last port served is P3 after power-on reset (R159). -/
def Obligations.EngineTakesByRotation : Prop :=
  (∀ s : State, (∀ p, (s.port p).command ≠ .pending) → s.nextTaken = none) ∧
  (∀ (s : State) (first second third : Port),
    (s.lastServed = .p1 ∧ first = .p2 ∧ second = .p3 ∧ third = .p1) ∨
    (s.lastServed = .p2 ∧ first = .p3 ∧ second = .p1 ∧ third = .p2) ∨
    (s.lastServed = .p3 ∧ first = .p1 ∧ second = .p2 ∧ third = .p3) →
    ((s.port first).command = .pending → s.nextTaken = some first) ∧
    ((s.port first).command ≠ .pending → (s.port second).command = .pending →
      s.nextTaken = some second) ∧
    ((s.port first).command ≠ .pending → (s.port second).command ≠ .pending →
      (s.port third).command = .pending → s.nextTaken = some third)) ∧
  (∀ role : Role, (State.afterReset role).lastServed = .p3)

/-- How a command completes: result code, whole result block (all 0x00 on a refusal), command state,
CMD_DONE, and the port becomes the last port served; everything else is as the command's action left it
(R159, R160). A code that names no command, 0x00 included, completes FAILED with UNKNOWN (R160, R175). -/
def Obligations.CompletionWritesAnswer : Prop :=
  (∀ (p : Port) (r : Reply) (s : State),
      let t := complete p r s
      let q := t.port p
      q.resultCode = r.code ∧
      (∀ i : Fin 24, q.result[i.val] = r.results.getD i.val 0#8) ∧
      q.command = (if r.code = .done ∨ r.code = .empty then .done else .failed) ∧
      q.holds .cmdDone = true ∧ (∀ e : Event, e ≠ .cmdDone → q.holds e = (s.port p).holds e) ∧
      t.lastServed = p ∧
      q = { s.port p with
        resultCode := q.resultCode, result := q.result, command := q.command, events := q.events } ∧
      (∀ other, other ≠ p → t.port other = s.port other) ∧
      t = { s with ports := t.ports, lastServed := t.lastServed } ∧
      (∀ code : ResultCode, (Reply.refuse code).results = [])) ∧
  (∀ (p : Port) (s : State), s.nextTaken = some p → (s.port p).code ∉ commandCodes →
      exec (.unknownCommand p) s = refusedWith p .unknown s)

/-- A command row changes nothing unless the engine's next take is that row's own command from that port: the
engine's rotation gives another port, or the slot's code is another one (log entry 4). A row of one answer
flag, action, scope or operation changes nothing either where the byte names another of them; that each of
those rows refuses a byte that names none is log entry 8. The row of a code that names no command changes
nothing where the code names one. -/
def Obligations.CommandNotTakenChangesNothing : Prop :=
  ∀ (p : Port) (s : State),
    let q := s.port p
    (∀ r ∈ [(Instr.linkUp p, 0x01#8), (.linkDown p, 0x02#8), (.linkStatus p, 0x03#8), (.counters p, 0x04#8),
        (.takeReport p, 0x11#8), (.slotAssign p, 0x20#8), (.slotFree p, 0x21#8), (.planRead p, 0x22#8),
        (.planSwitch p, 0x23#8), (.planWithdraw p, 0x24#8), (.planStatus p, 0x25#8),
        (.shapeArea p, 0x30#8), (.dropArea p, 0x31#8), (.clearArea p, 0x32#8), (.areaStatus p, 0x33#8),
        (.openChannel p, 0x40#8), (.closeChannel p, 0x41#8), (.postOrder p, 0x42#8), (.resume p, 0x44#8),
        (.channelStatus p, 0x45#8), (.takeCompletion p, 0x46#8)] ++
      [(.cellRead p, 0x50#8), (.cellSet p, 0x51#8), (.cellExchange p, 0x52#8), (.cellAdd p, 0x53#8),
        (.cellTake p, 0x54#8), (.cellTestClear p, 0x55#8), (.cellSetBit p, 0x56#8),
        (.cellWatch p, 0x57#8), (.cellsChanged p, 0x58#8), (.portReset p, 0x7F#8)],
      engineTakes s p r.2 = false → exec r.1 s = .next s) ∧
    (engineTakes s p 0x10#8 = false ∨ param q 5 ≠ 0#8 → exec (.sendService p) s = .next s) ∧
    (engineTakes s p 0x10#8 = false ∨ param q 5 = 0#8 → exec (.sendServiceAnswer p) s = .next s) ∧
    (∀ r ∈ [(Instr.maintLoopAll p, 1#8), (.maintLoopSlot p, 2#8), (.maintLoopClear p, 3#8),
        (.maintBadChecksOn p, 4#8), (.maintBadChecksOff p, 5#8), (.maintBlindOn p, 6#8),
        (.maintBlindOff p, 7#8), (.maintClearAll p, 8#8)],
      engineTakes s p 0x12#8 = false ∨
        (param q 0 ≠ r.2 ∧ 1 ≤ (param q 0).toNat ∧ (param q 0).toNat ≤ 8) → exec r.1 s = .next s) ∧
    (∀ r ∈ [(Instr.abortCurrent p, 0#8), (.abortAll p, 1#8)],
      engineTakes s p 0x43#8 = false ∨ (param q 1 ≠ r.2 ∧ (param q 1).toNat ≤ 1) →
        exec r.1 s = .next s) ∧
    (∀ r ∈ [(Instr.settingsRead p, 0#8), (.settingsWrite p, 1#8)],
      engineTakes s p 0x60#8 = false ∨ (param q 0 ≠ r.2 ∧ (param q 0).toNat ≤ 1) →
        exec r.1 s = .next s) ∧
    (s.nextTaken ≠ some p ∨ q.code ∈ commandCodes → exec (.unknownCommand p) s = .next s)

/-! ## Claims, status, counters -/

/-- LINK UP adds the port to the claim set, sets the try count to 0 and completes DONE at once, in every link
state; in ANSWERING, where R29 has the try count not changed, it keeps it: which of R24 and R29 gives way
there is the model's reading (log entry 26). In DOWN it answers a WAKE being heard, or begins a try when
neither the quiet guard nor the try timer runs; in every other case it changes nothing else (R24, R26, R28,
R29). -/
def Obligations.LinkUpAddsClaim : Prop :=
  ∀ (p : Port) (s : State), engineTakes s p 0x01#8 = true →
    let l : Link := { s.link with
      claims := s.link.claims.set p true
      tryCount := if s.link.state = .answering then s.link.tryCount else 0 }
    exec (.linkUp p) s = doneWith p [] (
      if s.link.state = .down ∧ s.link.wakeHeard = true then
        { s with
          link := { l with state := .answering, toneTimer := some .answer }
          framer := { s.framer with line := .answerTone } }
      else if s.link.state = .down ∧ s.link.quietGuard = false ∧ s.link.tryTimer = false then
        { s with
          link := { l with state := .waking, toneTimer := some .wake, tryTimer := true }
          framer := { s.framer with line := .wakeTone } }
      else { s with link := l })

/-- LINK DOWN removes the port from the claim set and completes DONE at once, in every link state. In
SYNCED and UP, with no claim left and peer DEMAND clear, the link enters LEAVING, its count at 0 and the
mismatch run 0; in WAKING, ANSWERING, ALIGNING, RESYNC and LEAVING nothing else changes (R24, R36, R95). That
the READY wait is absent in LEAVING is the model's reading (log entry 20). In DOWN the claims left decide: a
WAKE being heard is answered with auto-answer or a claim (R28), and with none heard a try begins where R26 has
it. -/
def Obligations.LinkDownRemovesClaim : Prop :=
  ∀ (p : Port) (s : State), engineTakes s p 0x02#8 = true →
    let l : Link := { s.link with claims := s.link.claims.set p false }
    let none_left := l.claims.p1 = false ∧ l.claims.p2 = false ∧ l.claims.p3 = false
    (s.link.state ≠ .down →
      exec (.linkDown p) s = doneWith p [] (
        if (s.link.state = .synced ∨ s.link.state = .up) ∧ none_left ∧ s.link.peerDemand = false then
          { s with
            link := { l with state := .leaving, leavingCount := some 0, readyWait := none }
            exchange := { s.exchange with mismatchRun := 0 } }
        else { s with link := l })) ∧
    (s.link.state = .down → none_left → s.settings.autoAnswer = false →
      exec (.linkDown p) s = doneWith p [] { s with link := l }) ∧
    (s.link.state = .down → exec (.linkDown p) s = doneWith p [] (
      if s.link.wakeHeard = true then
        if s.settings.autoAnswer = true ∨ ¬none_left then
          { s with
            link := { l with state := .answering, toneTimer := some .answer }
            framer := { s.framer with line := .answerTone } }
        else { s with link := l }
      else if ¬none_left ∧ s.link.quietGuard = false ∧ s.link.tryTimer = false ∧ s.link.tryCount < 5 then
        { s with
          link := { l with state := .waking, toneTimer := some .wake, tryTimer := true }
          framer := { s.framer with line := .wakeTone } }
      else { s with link := l }))

/-- LINK STATUS returns the link controller's state as it stands, changing nothing (R43, R175). -/
def Obligations.LinkStatusReports : Prop :=
  ∀ (p : Port) (s : State), engineTakes s p 0x03#8 = true →
    exec (.linkStatus p) s = doneWith p
      [linkStateField s.link.state,
        byteOf ((if s.link.claims.p1 then 1 else 0) + (if s.link.claims.p2 then 2 else 0)
          + (if s.link.claims.p3 then 4 else 0)),
        roleField s.framer.role, failureField s.link.lastFailure, byteOf s.link.tryCount,
        s.framer.cycle, s.framer.peerFlags, portNumber p] s

/-- COUNTERS returns both counters as they stand, and sets both to 0 in the same step when its parameter
asks for clearing, from any port in every link state; in DOWN, WAKING, ANSWERING and ALIGNING it returns
zeros, by an invariant stated above; the next error counts from the new values (R17). -/
def Obligations.CountersReportAndClear : Prop :=
  ∀ (p : Port) (s : State), engineTakes s p 0x04#8 = true →
    exec (.counters p) s = doneWith p [s.framer.nearEnd, s.framer.farEnd]
      (if param (s.port p) 0 = 0#8 then s
        else { s with framer := { s.framer with nearEnd := 0#8, farEnd := 0#8 } }) ∧
    (FramerFollowsLink s → s.link.state = .down ∨ s.link.state = .waking ∨ s.link.state = .answering ∨
      s.link.state = .aligning → s.framer.nearEnd = 0#8 ∧ s.framer.farEnd = 0#8)

/-! ## The service channel's commands -/

/-- SEND SERVICE: the checks in order. With the answer flag clear the message joins the origin queue, marked
as from a port (R49, R51, R167). With the flag set it is written to the answer place with source other: a
displaced answer is lost, and one that was the unsent AGREE of this end's schedule ends the schedule
WITHDRAWN without a message (R48, R51, R88). -/
def Obligations.SendServiceActs : Prop :=
  (∀ (p : Port) (s : State), engineTakes s p 0x10#8 = true → param (s.port p) 5 = 0#8 →
      let q := s.port p
      let m : Message := ⟨(param q 0).setWidth 4, if param q 1 = 0#8 then .order else .value, param q 2,
        wordOf (param q 3) (param q 4)⟩
      exec (.sendService p) s =
        if s.settings.servicePort ≠ p then refusedWith p .notServicePort s
        else if s.link.state = .down ∨ s.link.state = .waking ∨ s.link.state = .answering then
          refusedWith p .linkDown s
        else if 15 < (param q 0).toNat ∨ 1 < (param q 1).toNat ∨
            (param q 1 = 0#8 ∧ 0x10 ≤ (param q 2).toNat ∧ (param q 2).toNat ≤ 0x13) then
          refusedWith p .badParam s
        else if 3 ≤ s.service.origin.length then refusedWith p .svcFull s
        else doneWith p []
          { s with service := { s.service with origin := s.service.origin ++ [⟨m, false⟩] } }) ∧
  (∀ (p : Port) (s : State), engineTakes s p 0x10#8 = true → param (s.port p) 5 ≠ 0#8 →
      let q := s.port p
      let m : Message := ⟨(param q 0).setWidth 4, if param q 1 = 0#8 then .order else .value, param q 2,
        wordOf (param q 3) (param q 4)⟩
      let written := { s with service := { s.service with answer := some ⟨m, .other⟩ } }
      exec (.sendServiceAnswer p) s =
        if s.settings.servicePort ≠ p then refusedWith p .notServicePort s
        else if s.link.state = .down ∨ s.link.state = .waking ∨ s.link.state = .answering then
          refusedWith p .linkDown s
        else if 15 < (param q 0).toNat ∨ 1 < (param q 1).toNat ∨
            (param q 1 = 0#8 ∧ 0x10 ≤ (param q 2).toNat ∧ (param q 2).toNat ≤ 0x13) then
          refusedWith p .badParam s
        else doneWith p [] (
          if (∃ a, s.service.answer = some a ∧ a.source = .plan ∧ a.message.code = 0x11#8) ∧
              s.exchange.state = .scheduled ∧ s.exchange.side = some .agreer ∧ s.exchange.target = none then
            endExchange written .withdrawn none false
          else written))

/-- TAKE REPORT: refused from any other port; EMPTY with nothing queued; else the oldest record with the
queue's overflow mark, which is then cleared (R59, R167, R176). -/
def Obligations.TakeReportTakesOldest : Prop :=
  ∀ (p : Port) (s : State), engineTakes s p 0x11#8 = true →
    (s.settings.servicePort ≠ p → exec (.takeReport p) s = refusedWith p .notServicePort s) ∧
    (s.settings.servicePort = p → s.service.reports = [] →
      exec (.takeReport p) s = .next (complete p (Reply.empty []) s)) ∧
    (∀ r rest, s.settings.servicePort = p → s.service.reports = r :: rest →
      exec (.takeReport p) s = doneWith p
        [r.message.target.setWidth 8, kindField r.message.kind, r.message.code,
          lowByte r.message.argument, highByte r.message.argument, r.cycle, positionField r.position,
          dispositionField r.disposition, if s.service.overflow then 1#8 else 0#8]
        { s with service := { s.service with reports := rest, overflow := false } })

/-- MAINT (R65, R167): the effect of each action, taken from the service port while frames may be sent, and
the refusals in the order of the checks, on the row that the action byte names, and on every row when it
names none (log entry 8). -/
def Obligations.MaintActs : Prop :=
  (∀ (p : Port) (s : State), engineTakes s p 0x12#8 = true → s.settings.servicePort = p →
      s.link.state ≠ .down → s.link.state ≠ .waking → s.link.state ≠ .answering →
      let act := param (s.port p) 0
      let loops (v : Vector Bool 24) : State := { s with service := { s.service with loopSet := v } }
      let checks (b : Bool) : State := { s with
        service := { s.service with badStart := none }, framer := { s.framer with badChecks := b } }
      let blind (b : Bool) : State := { s with framer := { s.framer with checkBlind := b } }
      (act = 1#8 → exec (.maintLoopAll p) s = doneWith p [] (loops (Vector.replicate 24 true))) ∧
      (act = 2#8 → ∀ i : SlotNo, (param (s.port p) 1).toNat = i.val →
        exec (.maintLoopSlot p) s = doneWith p [] (loops (s.service.loopSet.set i.val true))) ∧
      (act = 2#8 → 23 < (param (s.port p) 1).toNat →
        exec (.maintLoopSlot p) s = refusedWith p .badParam s) ∧
      (act = 3#8 → exec (.maintLoopClear p) s = doneWith p [] (loops (Vector.replicate 24 false))) ∧
      (act = 4#8 → exec (.maintBadChecksOn p) s = doneWith p [] (checks true)) ∧
      (act = 5#8 → exec (.maintBadChecksOff p) s = doneWith p [] (checks false)) ∧
      (act = 6#8 → exec (.maintBlindOn p) s = doneWith p [] (blind true)) ∧
      (act = 7#8 → exec (.maintBlindOff p) s = doneWith p [] (blind false)) ∧
      (act = 8#8 → exec (.maintClearAll p) s = doneWith p [] { s with
        service := { s.service with loopSet := Vector.replicate 24 false, badStart := none }
        framer := { s.framer with badChecks := false, checkBlind := false } })) ∧
  (∀ (p : Port) (s : State), engineTakes s p 0x12#8 = true →
      let act := param (s.port p) 0
      ∀ r ∈ [(Instr.maintLoopAll p, 1#8), (.maintLoopSlot p, 2#8), (.maintLoopClear p, 3#8),
          (.maintBadChecksOn p, 4#8), (.maintBadChecksOff p, 5#8), (.maintBlindOn p, 6#8),
          (.maintBlindOff p, 7#8), (.maintClearAll p, 8#8)],
        act = r.2 ∨ act = 0#8 ∨ 8 < act.toNat →
        (s.settings.servicePort ≠ p → exec r.1 s = refusedWith p .notServicePort s) ∧
        (s.settings.servicePort = p →
          s.link.state = .down ∨ s.link.state = .waking ∨ s.link.state = .answering →
          exec r.1 s = refusedWith p .linkDown s) ∧
        (s.settings.servicePort = p →
          s.link.state ≠ .down → s.link.state ≠ .waking → s.link.state ≠ .answering →
          act = 0#8 ∨ 8 < act.toNat → exec r.1 s = refusedWith p .badParam s))

/-! ## The slot plan's commands -/

/-- SLOT ASSIGN and SLOT FREE: the checks in the order of the tables of R71 and R72, then one shadow entry
names the channel or becomes unassigned, and the result carries the channel's slot count and lead slot
there (R70, R71, R72). -/
def Obligations.SlotCommandsEditShadow : Prop :=
  (∀ (p : Port) (s : State), engineTakes s p 0x20#8 = true →
      match direction? (param (s.port p) 0), slot? (param (s.port p) 1), channel? (param (s.port p) 2) with
      | some d, some i, some c =>
        if s.exchange.state ≠ .idle ∨ s.exchange.adopt ≠ none then
          exec (.slotAssign p) s = refusedWith p .planBusy s
        else if (s.channel c).owner ≠ some p then exec (.slotAssign p) s = refusedWith p .notOwner s
        else if (s.channel c).direction ≠ some d then exec (.slotAssign p) s = refusedWith p .badParam s
        else if (s.plan.shadowTables.table d)[i.val] ≠ none then
          exec (.slotAssign p) s = refusedWith p .inUse s
        else ∃ t, t = { s with plan := t.plan } ∧
          t.plan = s.plan.setShadow
            (s.plan.shadowTables.setTable d ((s.plan.shadowTables.table d).set i.val (some c))) ∧
          exec (.slotAssign p) s = doneWith p
            [byteOf (slotCount (t.plan.shadowTables.table d) c),
              numberField (leadSlot (t.plan.shadowTables.table d) c)] t
      | _, _, _ => exec (.slotAssign p) s = refusedWith p .badParam s) ∧
  (∀ (p : Port) (s : State), engineTakes s p 0x21#8 = true →
      match direction? (param (s.port p) 0), slot? (param (s.port p) 1) with
      | some d, some i =>
        if s.exchange.state ≠ .idle ∨ s.exchange.adopt ≠ none then
          exec (.slotFree p) s = refusedWith p .planBusy s
        else match (s.plan.shadowTables.table d)[i.val] with
          | none => exec (.slotFree p) s = refusedWith p .state s
          | some c =>
            if (s.channel c).owner ≠ some p then exec (.slotFree p) s = refusedWith p .notOwner s
            else ∃ t, t = { s with plan := t.plan } ∧
              t.plan = s.plan.setShadow
                (s.plan.shadowTables.setTable d ((s.plan.shadowTables.table d).set i.val none)) ∧
              exec (.slotFree p) s = doneWith p
                [byteOf (slotCount (t.plan.shadowTables.table d) c),
                  numberField (leadSlot (t.plan.shadowTables.table d) c)] t
      | _, _ => exec (.slotFree p) s = refusedWith p .badParam s)

/-- PLAN READ gives one byte for each slot of the bank named, the outbound entry in the low four bits and the
inbound entry in the high four, 0xF for unassigned; any bank other than the four named is refused (R73,
R175). PLAN STATUS returns the exchange as it stands, changing nothing (R100, R175). -/
def Obligations.PlanReportsGiveState : Prop :=
  (∀ (p : Port) (s : State), engineTakes s p 0x22#8 = true →
      let n := param (s.port p) 0
      let shadow : Bank := if s.plan.active = .b0 then .b1 else .b0
      let entry (e : Option ChannelNo) : Nat := match e with | some c => c.val | none => 15
      let bytes (b : BankTables) : List Byte :=
        (List.finRange 24).map fun i => byteOf (entry b.out[i.val] + 16 * entry b.inn[i.val])
      exec (.planRead p) s =
        if n = 0#8 then doneWith p (bytes (s.plan.bank .b0)) s
        else if n = 1#8 then doneWith p (bytes (s.plan.bank .b1)) s
        else if n = 2#8 then doneWith p (bytes (s.plan.bank s.plan.active)) s
        else if n = 3#8 then doneWith p (bytes (s.plan.bank shadow)) s
        else refusedWith p .badParam s) ∧
  (∀ (p : Port) (s : State), engineTakes s p 0x25#8 = true →
      let x := s.exchange
      let word (w : Option Word) : List Byte := match w with | some v => field16 v | none => [0#8, 0#8]
      let mark (n : Nat) (absent : Bool) : Nat := if absent then n else 0
      exec (.planStatus p) s = doneWith p
        ([exchangeStateField x.state, sideField x.side, requesterField x.requester] ++
          word x.offered ++ word x.peerOffer ++ word x.answer ++
          [byteOf (mark 1 x.offered.isNone + mark 2 x.peerOffer.isNone + mark 4 x.answer.isNone
              + mark 8 x.target.isNone + mark 16 x.last.isNone),
            x.target.getD 0#8, byteOf x.count, bankField s.plan.active,
            byteOf (mark 1 x.mismatch + mark 2 x.adopt.isSome)] ++
          (match x.last with
            | some r => [planOutcomeField r.kind, refusalField r.reason, requesterField r.requester, r.cycle]
            | none => [0#8, 0#8, 0#8, 0#8]) ++
          [s.framer.cycle]) s)

/-- The lead slot is the lowest-numbered slot of the table that names the channel, and there is none when no
entry names it (R74). The digests are the sum of R76 with its two ways of giving positions. Two ends with
matching patterns compute the same figure: the offer digest of one is the answer digest of the other (R76). -/
def Obligations.LeadSlotsAndDigests : Prop :=
  (∀ (t : SlotTable) (c : ChannelNo),
      (∀ i : SlotNo, leadSlot t c = some i ↔
        t[i.val] = some c ∧ ∀ j : SlotNo, j < i → t[j.val] ≠ some c) ∧
      (leadSlot t c = none ↔ ∀ i : SlotNo, t[i.val] ≠ some c) ∧
      (leadSlot t c = none ↔ slotCount t c = 0)) ∧
  (∀ b : BankTables,
      let term (t : SlotTable) (i : SlotNo) (position : Nat) : Nat :=
        match t[i.val].bind (leadSlot t) with
        | some lead => (lead.val + 1) * (position + 1)
        | none => 0
      let sum (t : SlotTable) (base : Nat) : Nat :=
        ((List.finRange 24).map fun i => term t i (base + i.val)).sum
      (offerDigest b).toNat = (sum b.out 0 + sum b.inn 24) % 65536 ∧
      (answerDigest b).toNat = (sum b.out 24 + sum b.inn 0) % 65536) ∧
  (∀ a b : BankTables,
      (∀ i : SlotNo, (a.out[i.val]).bind (leadSlot a.out) = (b.inn[i.val]).bind (leadSlot b.inn)) →
      (∀ i : SlotNo, (a.inn[i.val]).bind (leadSlot a.inn) = (b.out[i.val]).bind (leadSlot b.out)) →
      offerDigest a = answerDigest b)

/-! ## The plan exchange -/

/-- PLAN SWITCH: the checks in order, then the offer is queued with the shadow's digest and the exchange is
OFFERED, count 0, requested by the port (R83). -/
def Obligations.PlanSwitchOffers : Prop :=
  ∀ (p : Port) (s : State), engineTakes s p 0x23#8 = true →
    let digest := offerDigest s.plan.shadowTables
    exec (.planSwitch p) s =
      if s.link.state ≠ .up then refusedWith p .linkDown s
      else if s.exchange.state ≠ .idle ∨ s.exchange.mismatch = true ∨ s.exchange.adopt ≠ none then
        refusedWith p .planBusy s
      else if 4 ≤ s.service.origin.length then refusedWith p .svcFull s
      else doneWith p [lowByte digest, highByte digest]
        { s with
          service := { s.service with
            origin := s.service.origin ++ [⟨⟨0#4, .order, 0x10#8, digest⟩, true⟩] }
          exchange := { s.exchange with
            offered := some digest, requester := some (.port p), count := 0, state := .offered } }

/-- PLAN WITHDRAW: in OFFERED a queued offer is taken back, or a WITHDRAW is queued behind what waits, and
the exchange ends WITHDRAWN; refused with STATE in IDLE and PLAN_BUSY in SCHEDULED (R50, R84). The exchange's
own OFFER is the youngest in the queue. -/
def Obligations.PlanWithdrawEndsOffer : Prop :=
  ∀ (p : Port) (s : State), engineTakes s p 0x24#8 = true →
    (s.exchange.state = .idle → exec (.planWithdraw p) s = refusedWith p .state s) ∧
    (s.exchange.state = .scheduled → exec (.planWithdraw p) s = refusedWith p .planBusy s) ∧
    (s.exchange.state = .offered → ∃ t, exec (.planWithdraw p) s = doneWith p [] t ∧
      t.exchange.state = .idle ∧
      t.exchange.last = some ⟨.withdrawn, none, s.exchange.requester, s.framer.cycle⟩ ∧
      (∀ before offer after, s.service.origin = before ++ offer :: after → offer.isOffer = true →
        (∀ e ∈ after, e.isOffer = false) → t.service.origin = before ++ after) ∧
      (offerQueued s = false → s.service.origin.length < 4 →
        t.service.origin = s.service.origin ++ [⟨⟨0#4, .order, 0x13#8, 0#16⟩, true⟩]))

/-- The end of an exchange in flight (R82): IDLE, its items absent or 0, its queued offer, the youngest there,
removed, the outcome written, PLAN raised to all ports; without a swap the shadow is cleared as R80 has it,
and nothing else changes. A BANK that agrees with the reference bank ends a mismatch; the second that differs
running confirms one, which ends an exchange in flight and, at the Follow end, names the bank to adopt (R95,
R96, R98). That the confirmation is made at the run's step from 1 to 2, not again while the run stands at 2, and
anew when a run after an exit from UP reaches 2, is the model's reading (log entry 17). -/
def Obligations.ExchangeEndWritesOutcome : Prop :=
  (∀ (s : State) (kind : PlanOutcomeKind) (reason : Option RefusalReason) (swapped : Bool),
    let t := endExchange s kind reason swapped
    t.exchange = { s.exchange with
      state := .idle, requester := none, side := none, offered := none, target := none, count := 0
      last := some ⟨kind, reason, s.exchange.requester, s.framer.cycle⟩ } ∧
    t.service = { s.service with origin := t.service.origin } ∧
    (s.exchange.state ≠ .offered ∨ (∀ e ∈ s.service.origin, e.isOffer = false) →
      t.service.origin = s.service.origin) ∧
    (∀ before offer after, s.exchange.state = .offered → s.service.origin = before ++ offer :: after →
      offer.isOffer = true → (∀ e ∈ after, e.isOffer = false) → t.service.origin = before ++ after) ∧
    (∀ p : Port, (t.port p).holds .plan = true) ∧
    (∀ (p : Port) (e : Event), e ≠ .plan → (t.port p).holds e = (s.port p).holds e) ∧
    (∀ p : Port, t.port p = { s.port p with events := (t.port p).events }) ∧
    (swapped = true → t.plan = s.plan) ∧
    (swapped = false →
      t.plan.activeTables = s.plan.activeTables ∧ t.plan.active = s.plan.active ∧
      t.plan.receive = s.plan.receive ∧ t.plan.retained = s.plan.retained ∧
      (∀ c : ChannelNo, t.plan.pendingClear[c.val] = false) ∧
      ∀ (d : Direction) (i : SlotNo), (t.plan.shadowTables.table d)[i.val] =
        match (s.plan.shadowTables.table d)[i.val] with
        | some c => if (s.channel c).state ≠ .closed ∧ s.plan.pendingClear[c.val] = false then some c
          else none
        | none => none) ∧
    t = { s with exchange := t.exchange, service := t.service, plan := t.plan, ports := t.ports }) ∧
  (∀ (s : State) (bank reference : Bank),
    let run := s.exchange.mismatchRun
    let confirmed : State := { s with exchange := { s.exchange with mismatchRun := 2, mismatch := true } }
    let told : State :=
      if s.exchange.state ≠ .idle then endExchange confirmed .mismatch none false
      else { confirmed with exchange := { confirmed.exchange with
        last := some ⟨.mismatch, none, some .peer, s.framer.cycle⟩ } }.raiseAll .plan
    (bank = reference → compareBank s bank reference =
      { s with exchange := { s.exchange with mismatchRun := 0, mismatch := false } }) ∧
    (bank ≠ reference → run ≠ 1 → compareBank s bank reference =
      { s with exchange := { s.exchange with mismatchRun := min 2 (run + 1) } }) ∧
    (bank ≠ reference → run = 1 → s.framer.role = .clock → compareBank s bank reference = told) ∧
    (bank ≠ reference → run = 1 → s.framer.role = .follow → compareBank s bank reference =
      { told with exchange := { told.exchange with adopt := some bank } }))

/-- The swap of the banks (R78, steps 1 to 3): the former shadow is active as it stood, and the new shadow
is its copy less the entries of closed channels, of channels in the pending-clear set, and of open
channels in the table of the other direction; the pending-clear set is emptied. The receive bank does not
move, and the inbound table frames were read against is retained as it stood, the model's reading (log entry 30;
R69, R93, R140). The check that follows takes
each open channel, in the order of the step: where its area is below two units of its slots in the new active
bank, its current order ends AREA_SMALL and it halts (R139, R140). A halt that ends an order, for this reason,
for OVERRUN or for LINK_LOST, records the order, leaves the waiter list and raises HALTED. -/
def Obligations.SwapRebuildsShadow : Prop :=
  (∀ s : State,
    let t := swapBanks s
    t.plan.active ≠ s.plan.active ∧ t.plan.activeTables = s.plan.shadowTables ∧
    t.plan.receive = s.plan.receive ∧
    t.plan.retained = some (match s.plan.retained with
      | some old => old
      | none => (s.plan.bank s.plan.receive).inn) ∧
    (∀ c : ChannelNo, t.plan.pendingClear[c.val] = false) ∧
    (∀ (d : Direction) (i : SlotNo), (t.plan.shadowTables.table d)[i.val] =
      match (s.plan.shadowTables.table d)[i.val] with
      | some c => if (s.channel c).state ≠ .closed ∧ s.plan.pendingClear[c.val] = false ∧
          (s.channel c).direction = some d then some c else none
      | none => none) ∧
    t = { s with plan := t.plan }) ∧
  (∀ (order : ChannelOrder) (s : State),
    checkAreas order s = (channelOrder order).foldl checkArea s ∧
    ∀ (c : ChannelNo) (p : Port) (d : Direction) (n : AreaNo),
      let x := s.channel c
      let small : Prop := 64 * (s.area n).count.getD 0 < 8 * slotCount (s.plan.activeTables.table d) c
      (x.state = .closed → checkArea s c = s) ∧
      (x.state ≠ .closed → x.owner = some p → x.direction = some d → x.area = some n →
        (¬small → checkArea s c = s) ∧
        (small → x.state = .idle ∨ x.state = .halted → checkArea s c =
          (s.setChannel c { x with state := .halted, halt := some .areaSmall }).raise p .halted) ∧
        (small → x.state = .waiting ∨ x.state = .active →
          checkArea s c = endAndHalt s c .areaSmall .areaSmall))) ∧
  (∀ (s : State) (c : ChannelNo) (p : Port) (o : Order) (rest : List Order) (outcome : OrderOutcome)
      (reason : HaltReason),
    let x := s.channel c
    x.owner = some p → x.queue = o :: rest →
    outcome = .overrun ∨ outcome = .linkLost ∨ outcome = .areaSmall →
    let t := endAndHalt s c outcome reason
    let q := s.port p
    t.channel c = { x with queue := rest, state := .halted, halt := some reason } ∧
    (∀ d, d ≠ c → t.channel d = s.channel d) ∧
    t.port p = { q with
      completions := q.completions ++ [⟨c, o.tag, outcome, o.moved, s.framer.cycle⟩]
      orderCount := q.orderCount - 1
      events := q.events ||| Event.completion.word ||| Event.halted.word } ∧
    (∀ r, r ≠ p → t.port r = s.port r) ∧
    (∀ k, (t.cell k).value = (s.cell k).value) ∧
    (∀ k, (t.cell k).waiters = if x.state = .waiting ∧ o.gate = some k then
      (s.cell k).waiters.filter (· != c) else (s.cell k).waiters) ∧
    t = { s with channels := t.channels, ports := t.ports, cells := t.cells })

/-- The peer's plan messages, handed on by their code (R50, R55). An offer is handled by the exchange's state
(R86, R89), whatever stands in the answer place, which the answer replaces (R48): one that can be taken up, with
equal digests, takes the exchange into SCHEDULED as agreer and raises PLAN to all ports (R82). The refusal of
an offer that meets an unsent AGREE of this end in the answer place displaces it, and the schedule ends
WITHDRAWN (R88). A WITHDRAW ends the agreer's schedule and is disregarded otherwise (R92). -/
def Obligations.PeerOfferAnswered : Prop :=
  (∀ (s : State) (m : Message),
    (m.code = 0x10#8 → planReceived s m = offerReceived s m.argument) ∧
    (m.code = 0x11#8 → planReceived s m = agreeReceived s m.argument) ∧
    (m.code = 0x12#8 → planReceived s m = refuseReceived s m.argument) ∧
    (m.code = 0x13#8 → planReceived s m = withdrawReceived s) ∧
    (s.exchange.state = .scheduled ∧ s.exchange.side = some .agreer →
      withdrawReceived s = endExchange s .withdrawn none false) ∧
    (¬(s.exchange.state = .scheduled ∧ s.exchange.side = some .agreer) → withdrawReceived s = s)) ∧
  (∀ (s : State) (digest : Word) (a : Answer), s.service.answer = some a →
    s.exchange.state = .scheduled →
    let refused : State := { s with service := { s.service with
      answer := some ⟨⟨0#4, .order, 0x12#8, 1#16⟩, .plan⟩ } }
    let unsent : Prop := a.source = .plan ∧ a.message.code = 0x11#8 ∧ s.exchange.side = some .agreer ∧
      s.exchange.target = none
    (unsent → offerReceived s digest = endExchange refused .withdrawn none false) ∧
    (¬unsent → offerReceived s digest = refused)) ∧
  ∀ (s : State) (digest : Word),
    let answered (x : State) (code : Byte) (argument : Word) : State := { x with service := { x.service with
      answer := some ⟨⟨0#4, .order, code, argument⟩, .plan⟩ } }
    let own := answerDigest s.plan.shadowTables
    let kept : State := { s with exchange := { s.exchange with
      peerOffer := some digest, answer := some own } }
    (s.exchange.state = .scheduled → s.service.answer = none →
      offerReceived s digest = answered s 0x12#8 1#16) ∧
    (s.exchange.state = .offered → s.framer.role = .clock →
      offerReceived s digest = answered s 0x12#8 1#16) ∧
    (s.exchange.state = .idle →
      s.link.state ≠ .up ∨ s.exchange.mismatch = true ∨ s.exchange.adopt ≠ none →
      offerReceived s digest = answered s 0x12#8 1#16) ∧
    (s.exchange.state = .idle → s.link.state = .up → s.exchange.mismatch = false →
      s.exchange.adopt = none →
      (own ≠ digest → offerReceived s digest = answered kept 0x12#8 2#16) ∧
      (own = digest →
        offerReceived s digest = State.raiseAll { answered kept 0x11#8 0#16 with
          exchange := { kept.exchange with
            state := .scheduled, side := some .agreer, requester := some .peer, target := none } } .plan ∧
        ∀ p, ((offerReceived s digest).port p).holds .plan = true)) ∧
    (s.exchange.state = .offered → s.framer.role = .follow →
      offerReceived s digest = offerReceived (endExchange s .collided none false) digest)

/-- A confirmed AGREE in OFFERED: SCHEDULED with T at a distance of 3 to 16 cycles and PLAN to all ports, else
LATE, with PLAN WITHDRAW appended to the origin queue unless this end's OFFER still stands there, which is then
removed (R50, R82); an AGREE or a REFUSE that finds no offer is disregarded, and a REFUSE ends the offer REFUSED
(R90, R91). -/
def Obligations.AnswerToOffer : Prop :=
  ∀ (s : State) (argument : Word),
    let distance := (argument.setWidth 8 - s.framer.cycle).toNat
    (s.exchange.state ≠ .offered → agreeReceived s argument = s ∧ refuseReceived s argument = s) ∧
    (s.exchange.state = .offered → argument.toNat ≤ 255 → 3 ≤ distance → distance ≤ 16 →
      agreeReceived s argument = State.raiseAll { s with exchange := { s.exchange with
        state := .scheduled, side := some .offerer, target := some (argument.setWidth 8) } } .plan ∧
      (∀ p, ((agreeReceived s argument).port p).holds .plan = true)) ∧
    (s.exchange.state = .offered → 255 < argument.toNat ∨ distance < 3 ∨ 16 < distance →
      (agreeReceived s argument).exchange.state = .idle ∧
      (agreeReceived s argument).exchange.last =
        some ⟨.late, none, s.exchange.requester, s.framer.cycle⟩ ∧
      (∀ e ∈ s.service.origin, e.isOffer = true → agreeReceived s argument = endExchange s .late none false) ∧
      ((∀ e ∈ s.service.origin, e.isOffer = false) → s.service.origin.length < 4 →
        let withdraw : OriginEntry := ⟨⟨0#4, .order, 0x13#8, 0#16⟩, true⟩
        (agreeReceived s argument).service.origin = s.service.origin ++ [withdraw] ∧
        agreeReceived s argument = endExchange { s with service := { s.service with
          origin := s.service.origin ++ [withdraw] } } .late none false)) ∧
    (s.exchange.state = .offered →
      refuseReceived s argument =
        endExchange s .refused (some (if argument = 2#16 then .pattern else .busy)) false)

/-! ## Areas -/

/-- SHAPE AREA (R104): the checks in order, the overlap test over the blocks of R101, then the area record
as given, with the positions and the fill level at 0. Nothing else changes, the pool's bytes included. -/
def Obligations.ShapeAreaDefinesRing : Prop :=
  ∀ (p : Port) (s : State), engineTakes s p 0x30#8 = true → RingsInRange s →
    let first := (param (s.port p) 1).toNat
    let count := (wordOf (param (s.port p) 2) (param (s.port p) 3)).toNat
    let covers (m : AreaNo) (b : Nat) : Prop :=
      ∃ f k, (s.area m).first = some f ∧ (s.area m).count = some k ∧ f ≤ b ∧ b < f + k
    match area? (param (s.port p) 0) with
    | none => exec (.shapeArea p) s = refusedWith p .badParam s
    | some n =>
      if count < 1 ∨ 256 < count then exec (.shapeArea p) s = refusedWith p .badParam s
      else if (s.area n).state ≠ .undefined ∧ (s.area n).holder ≠ some p then
        exec (.shapeArea p) s = refusedWith p .heldElsewhere s
      else if (s.area n).state = .bound then exec (.shapeArea p) s = refusedWith p .areaBound s
      else if 256 < first + count then exec (.shapeArea p) s = refusedWith p .range s
      else
        ((∃ m b, m ≠ n ∧ (s.area m).state ≠ .undefined ∧ covers m b ∧ first ≤ b ∧ b < first + count) →
          exec (.shapeArea p) s = refusedWith p .overlap s) ∧
        ((∀ m b, m ≠ n → (s.area m).state ≠ .undefined → covers m b → ¬(first ≤ b ∧ b < first + count)) →
          exec (.shapeArea p) s = doneWith p (fieldNat (64 * count))
            (s.setArea n ⟨.free, some p, some first, some count, 0, 0, 0, none⟩))

/-- DROP AREA (R105) and CLEAR AREA (R106), each with its checks in order, and AREA STATUS (R107), whose result
has the layout of R175 and which changes nothing. -/
def Obligations.AreaCommandsAct : Prop :=
  ∀ (p : Port) (s : State),
    (engineTakes s p 0x31#8 = true → match area? (param (s.port p) 0) with
      | none => exec (.dropArea p) s = refusedWith p .badParam s
      | some n => exec (.dropArea p) s =
        if (s.area n).state = .undefined then refusedWith p .areaUndefined s
        else if (s.area n).holder ≠ some p then refusedWith p .heldElsewhere s
        else if (s.area n).state = .bound then refusedWith p .areaBound s
        else doneWith p [] (s.setArea n ⟨.undefined, none, none, none, 0, 0, 0, none⟩)) ∧
    (engineTakes s p 0x32#8 = true → match area? (param (s.port p) 0) with
      | none => exec (.clearArea p) s = refusedWith p .badParam s
      | some n => exec (.clearArea p) s =
        if (s.area n).state = .undefined then refusedWith p .areaUndefined s
        else if (s.area n).holder ≠ some p then refusedWith p .heldElsewhere s
        else if (s.area n).state = .bound ∧ (s.area n).channel.any (fun c => (s.channel c).state = .active) then
          refusedWith p .state s
        else doneWith p (fieldNat (s.area n).fill)
          (s.setArea n { s.area n with readPos := 0, writePos := 0, fill := 0 })) ∧
    (engineTakes s p 0x33#8 = true → match area? (param (s.port p) 0) with
      | none => exec (.areaStatus p) s = refusedWith p .badParam s
      | some n => exec (.areaStatus p) s =
        let a := s.area n
        let size := match a.count with | some k => 64 * k | none => 0
        doneWith p ([areaStateField a.state, portField a.holder, byteOf (a.first.getD 0)] ++
          fieldNat (a.count.getD 0) ++
          [numberField a.channel,
            byteOf ((if a.first = none then 1 else 0) + (if a.count = none then 2 else 0))] ++
          fieldNat size ++ fieldNat a.readPos ++ fieldNat a.writePos ++ fieldNat a.fill ++
          fieldNat (size - a.fill)) s)

/-- Each byte of a data window (R103, R109, R110, R111): on an open channel that the port owns, of the
window's direction, a written byte is appended to the area's ring and a read byte is removed from it and
sent; with no room, or nothing there, DATA_SPILL is raised and no area changes; on any other channel ACCESS
is raised and no area changes. A byte that is not there is sent as 0x00. The byte belongs to a transaction that
it begins or that is in progress with the window's header, else the port disregards it; SDOn carries the byte
until SELn is driven high, and during a written byte a free value, and the bytes that a read has sent stand
in their order until the port's next data-window transaction begins (R155, R170; log entries 19 and 27). -/
def Obligations.DataWindowMovesBytes : Prop :=
  ∀ (p : Port) (c : ChannelNo) (b : Byte) (begins ends : Bool) (s : State),
    let ours (d : Direction) : Prop := (s.channel c).state ≠ .closed ∧ (s.channel c).owner = some p ∧
      (s.channel c).direction = some d
    let taken (header : Byte) : Prop := begins = true ∨ (s.port p).transaction = .taken header
    let write := exec (.dataWindowWrite p c ⟨b, begins, ends⟩) s
    let read := exec (.dataWindowRead p ⟨c, begins, ends⟩) s
    let writing := byteOf (6 + c.val)
    let reading := byteOf (134 + c.val)
    let shown (header v : Byte) (sent : List Byte) (t : State) : State := t.setPort p { t.port p with
      transaction := if ends then .off else .taken header, sdo := if ends then none else some v
      sent := (if begins then [] else (s.port p).sent) ++ sent }
    let passed : State := if ends then s.setPort p { s.port p with transaction := .off, sdo := none } else s
    let drawn : State := { s with freeNext := s.freeNext + 1 }
    (¬taken writing → write = .next passed) ∧ (¬taken reading → read = .next passed) ∧
    (taken reading → ¬ours .inn → read = .next (shown reading 0#8 [0#8] (s.raise p .access))) ∧
    ∃ v, (taken writing → ¬ours .out → write = .next (shown writing v [] (drawn.raise p .access))) ∧
    ∀ n first count, (s.channel c).area = some n → (s.area n).first = some first →
      (s.area n).count = some count →
      let a := s.area n
      let size := 64 * count
      let next (pos : Nat) : Nat := if pos + 1 < size then pos + 1 else 0
      let place (pos : Nat) : Nat := 64 * (first + pos / 64) + pos % 64
      (taken writing → ours .out → write = .next (shown writing v [] (
        if a.fill < size then
          { drawn with pool := Memory.write s.pool (place a.writePos) b }.setArea n
            { a with writePos := next a.writePos, fill := a.fill + 1 }
        else drawn.raise p .dataSpill))) ∧
      (taken reading → ours .inn → read = .next (
        let b := Memory.read s.pool (place a.readPos)
        if 0 < a.fill then shown reading b [b]
          (s.setArea n { a with readPos := next a.readPos, fill := a.fill - 1 })
        else shown reading 0#8 [0#8] (s.raise p .dataSpill)))

/-! ## Channels and orders -/

/-- OPEN (R118, R108): the checks in order, then an IDLE channel of the port bound to the area, which keeps
its positions and fill level; the results are the channel's figures in the active bank. -/
def Obligations.OpenBindsArea : Prop :=
  ∀ (p : Port) (s : State), engineTakes s p 0x40#8 = true →
    match channel? (param (s.port p) 0), direction? (param (s.port p) 1), area? (param (s.port p) 2) with
    | some c, some d, some n =>
      let k := slotCount (s.plan.activeTables.table d) c
      exec (.openChannel p) s =
        if (s.channel c).state ≠ .closed then refusedWith p .owned s
        else if (s.area n).state = .undefined then refusedWith p .areaUndefined s
        else if (s.area n).holder ≠ some p then refusedWith p .heldElsewhere s
        else if (s.area n).state ≠ .free then refusedWith p .areaBound s
        else if 64 * (s.area n).count.getD 0 < 8 * k then refusedWith p .areaSmall s
        else doneWith p
          [byteOf k, numberField (leadSlot (s.plan.activeTables.table d) c), byteOf (4 * k),
            byteOf (slotCount (s.plan.activeTables.table
              (match d with | .out => .inn | .inn => .out)) c)]
          ((s.setChannel c ⟨.idle, some p, some d, some n, [], none, false⟩).setArea n
            { s.area n with state := .bound, channel := some c })
    | _, _, _ => exec (.openChannel p) s = refusedWith p .badParam s

/-- The three checks that CLOSE, POST ORDER, ABORT and RESUME make alike, on the row of either ABORT scope
(R119, R122, R124, R125): a channel above 7 is refused with BAD_PARAM, a CLOSED one with STATE, another
port's with NOT_OWNER. -/
def Obligations.OwnChannelChecks : Prop :=
  ∀ (p : Port) (s : State), ∀ r ∈ [(Instr.closeChannel p, 0x41#8), (.postOrder p, 0x42#8),
      (.abortCurrent p, 0x43#8), (.abortAll p, 0x43#8), (.resume p, 0x44#8)],
    engineTakes s p r.2 = true →
    (r.1 = .abortCurrent p → param (s.port p) 1 = 0#8) → (r.1 = .abortAll p → param (s.port p) 1 = 1#8) →
    (r.1 = .postOrder p → (param (s.port p) 2 ≠ 0#8 ∨ param (s.port p) 3 ≠ 0#8) ∧
      (∀ i ∈ [4, 5], (param (s.port p) i).toNat ≤ 15 ∨ param (s.port p) i = 0xFF#8)) →
    match channel? (param (s.port p) 0) with
    | none => exec r.1 s = refusedWith p .badParam s
    | some c =>
      ((s.channel c).state = .closed → exec r.1 s = refusedWith p .state s) ∧
      ((s.channel c).state ≠ .closed → (s.channel c).owner ≠ some p →
        exec r.1 s = refusedWith p .notOwner s)

/-- CLOSE of an own channel (R119, R120): refused with PLAN_BUSY while a bank that names the channel may go
live; else every order ends ABORTED in queue order, the area becomes FREE with its data kept, the channel
leaves the waiter list it stood in, the slot plan acts on the close (R79), and the record is CLOSED. No
other channel, area or cell value changes. -/
def Obligations.CloseEndsEveryOrder : Prop :=
  ∀ (p : Port) (c : ChannelNo) (n : AreaNo) (s : State), engineTakes s p 0x41#8 = true →
    (param (s.port p) 0).toNat = c.val → (s.channel c).state ≠ .closed → (s.channel c).owner = some p →
    (s.channel c).area = some n →
    let x := s.channel c
    let flight : Prop := s.exchange.state ≠ .idle
    let named : Prop := ∃ (d : Direction) (i : SlotNo), (s.plan.shadowTables.table d)[i.val] = some c
    let waitsOn (k : CellNo) : Prop := x.state = .waiting ∧ ∃ o rest, x.queue = o :: rest ∧ o.gate = some k
    ((flight ∨ s.exchange.adopt ≠ none) → named → exec (.closeChannel p) s = refusedWith p .planBusy s) ∧
    (¬((flight ∨ s.exchange.adopt ≠ none) ∧ named) →
      ∃ t, exec (.closeChannel p) s = doneWith p [byteOf x.queue.length] t ∧
        t.channel c = ⟨.closed, none, none, none, [], none, false⟩ ∧
        (∀ d, d ≠ c → t.channel d = s.channel d) ∧
        t.area n = { s.area n with state := .free, channel := none } ∧
        (∀ m, m ≠ n → t.area m = s.area m) ∧
        t.port p = { s.port p with
          completions := (s.port p).completions ++
            x.queue.map (fun o => ⟨c, o.tag, .aborted, o.moved, s.framer.cycle⟩)
          orderCount := (s.port p).orderCount - x.queue.length
          events := if x.queue = [] then (s.port p).events
            else (s.port p).events ||| Event.completion.word } ∧
        (∀ q, q ≠ p → t.port q = s.port q) ∧
        (∀ k, (t.cell k).value = (s.cell k).value) ∧
        (∀ k, (waitsOn k → (t.cell k).waiters = (s.cell k).waiters.filter (· != c)) ∧
          (¬waitsOn k → t.cell k = s.cell k)) ∧
        (flight → t.plan = { s.plan with pendingClear := s.plan.pendingClear.set c.val true }) ∧
        (¬flight → t.plan.active = s.plan.active ∧ t.plan.receive = s.plan.receive ∧
          t.plan.retained = s.plan.retained ∧
          t.plan.pendingClear = s.plan.pendingClear ∧
          t.plan.activeTables = s.plan.activeTables ∧ ∀ (d : Direction) (i : SlotNo),
          (t.plan.shadowTables.table d)[i.val] =
            if (s.plan.shadowTables.table d)[i.val] = some c then none
            else (s.plan.shadowTables.table d)[i.val]) ∧
        t = { s with channels := t.channels, areas := t.areas, ports := t.ports, cells := t.cells,
                     plan := t.plan })

/-- POST ORDER on an own channel (R122, R123): the checks in order, then the order joins the tail of the
queue with bytes moved 0. On an IDLE channel it becomes current: ACTIVE without a gate, or by taking one
from a gate cell above 0; else WAITING at the tail of the cell's waiter list. A gate or completion byte that is
neither a cell nor 0xFF is BAD_PARAM, before any other check. -/
def Obligations.PostOrderQueues : Prop :=
  (∀ (p : Port) (s : State), engineTakes s p 0x42#8 = true →
    (∃ i ∈ [4, 5], 15 < (param (s.port p) i).toNat ∧ param (s.port p) i ≠ 0xFF#8) →
    exec (.postOrder p) s = refusedWith p .badParam s) ∧
  (∀ (p : Port) (c : ChannelNo) (gate completion : Option CellNo) (s : State),
    engineTakes s p 0x42#8 = true →
    (param (s.port p) 0).toNat = c.val → (s.channel c).state ≠ .closed → (s.channel c).owner = some p →
    optionalCell? (param (s.port p) 4) = some gate →
    optionalCell? (param (s.port p) 5) = some completion →
    let q := s.port p
    let count := (wordOf (param q 2) (param q 3)).toNat
    let x := s.channel c
    let o : Order := ⟨param q 1, count, 0, gate, completion⟩
    let posted := (s.setChannel c { x with queue := x.queue ++ [o] }).setPort p
      { q with orderCount := q.orderCount + 1 }
    let results := [byteOf (x.queue.length + 1), byteOf (16 - (q.orderCount + 1) - q.completions.length)]
    (count = 0 → exec (.postOrder p) s = refusedWith p .badParam s) ∧
    (1 ≤ count → 4 ≤ x.queue.length → exec (.postOrder p) s = refusedWith p .queueFull s) ∧
    (1 ≤ count → x.queue.length < 4 → 16 ≤ q.orderCount + q.completions.length →
      exec (.postOrder p) s = refusedWith p .noRoom s) ∧
    (1 ≤ count → x.queue.length < 4 → q.orderCount + q.completions.length < 16 →
      (x.state ≠ .idle → exec (.postOrder p) s = doneWith p results posted) ∧
      (x.state = .idle → x.queue = [] → gate = none →
        exec (.postOrder p) s = doneWith p results
          (posted.setChannel c { x with queue := [o], state := .active })) ∧
      (∀ k, x.state = .idle → x.queue = [] → gate = some k → (s.cell k).value = 0#16 →
        exec (.postOrder p) s = doneWith p results
          ((posted.setChannel c { x with queue := [o], state := .waiting }).setCell k
            { s.cell k with waiters := (s.cell k).waiters ++ [c] })) ∧
      (∀ k, x.state = .idle → x.queue = [] → gate = some k → (s.cell k).value ≠ 0#16 →
        (s.cell k).waiters = [] →
        ∃ t, exec (.postOrder p) s = doneWith p results t ∧
          t.channel c = { x with queue := [o], state := .active } ∧
          t.cell k = ⟨(s.cell k).value - 1#16, []⟩ ∧
          (∀ d, d ≠ c → t.channel d = s.channel d) ∧ (∀ l, l ≠ k → t.cell l = s.cell l) ∧
          (∀ r, t.port r = (posted.port r).recordChange k) ∧
          t = { s with channels := t.channels, cells := t.cells, ports := t.ports })))

/-- ABORT on an own channel (R124, R127): scope CURRENT ends the current order ABORTED, a WAITING one
leaving its waiter list, and the next order becomes current, ACTIVE at once without a gate and else by the gate
rule; without a current order it is refused with STATE. Scope ALL ends every order ABORTED in queue order, and
none becomes current. Ending orders changes no cell value and no other channel. That both rows refuse a scope
byte that names none is log entry 8. -/
def Obligations.AbortEndsOrders : Prop :=
  ∀ (p : Port) (c : ChannelNo) (s : State), engineTakes s p 0x43#8 = true →
    (param (s.port p) 0).toNat = c.val → (s.channel c).state ≠ .closed → (s.channel c).owner = some p →
    let x := s.channel c
    let record (o : Order) : CompletionRecord := ⟨c, o.tag, .aborted, o.moved, s.framer.cycle⟩
    let others (t : State) (ended : List Order) : Prop :=
      t.port p = { s.port p with
        completions := (s.port p).completions ++ ended.map record
        orderCount := (s.port p).orderCount - ended.length
        events := if ended = [] then (s.port p).events
          else (s.port p).events ||| Event.completion.word } ∧
      (∀ q, q ≠ p → t.port q = s.port q) ∧ (∀ d, d ≠ c → t.channel d = s.channel d) ∧
      (∀ k, (t.cell k).value = (s.cell k).value) ∧
      (∀ k, (t.cell k).waiters = if x.state = .waiting ∧ (x.queue.head?.bind Order.gate) = some k then
        (s.cell k).waiters.filter (· != c) else (s.cell k).waiters) ∧
      t = { s with channels := t.channels, ports := t.ports, cells := t.cells }
    (param (s.port p) 1 = 0#8 → x.state ≠ .waiting → x.state ≠ .active →
      exec (.abortCurrent p) s = refusedWith p .state s) ∧
    (param (s.port p) 1 = 0#8 → x.state = .waiting ∨ x.state = .active →
      ∀ o rest, x.queue = o :: rest → (rest.head?.bind Order.gate) = none →
      ∃ t, exec (.abortCurrent p) s = doneWith p [1#8] t ∧ others t [o] ∧
        t.channel c = { x with queue := rest, state := if rest = [] then .idle else .active }) ∧
    (param (s.port p) 1 = 0#8 → x.state = .waiting ∨ x.state = .active →
      ∀ o next rest k, x.queue = o :: next :: rest → next.gate = some k →
      ∃ t, others t [o] ∧ exec (.abortCurrent p) s = doneWith p [1#8]
        (gateRule ((t.setChannel c { x with queue := next :: rest, state := .waiting }).setCell k
          { t.cell k with waiters := (t.cell k).waiters ++ [c] }) k).1) ∧
    (param (s.port p) 1 = 1#8 →
      ∃ t, exec (.abortAll p) s = doneWith p [byteOf x.queue.length] t ∧ others t x.queue ∧
        t.channel c = { x with queue := [], state := if x.state = .halted then .halted else .idle }) ∧
    (2 ≤ (param (s.port p) 1).toNat → exec (.abortCurrent p) s = refusedWith p .badParam s ∧
      exec (.abortAll p) s = refusedWith p .badParam s)

/-- RESUME of an own channel (R125, R123): only a HALTED one, and only while its area suffices for two units
of its slots in the active bank; the halt reason becomes absent, and the channel becomes IDLE, or its head
order becomes current: ACTIVE without a gate or by taking one from a gate cell above 0, else WAITING. -/
def Obligations.ResumeRestartsChannel : Prop :=
  ∀ (p : Port) (c : ChannelNo) (d : Direction) (n : AreaNo) (s : State),
    engineTakes s p 0x44#8 = true → (param (s.port p) 0).toNat = c.val → (s.channel c).owner = some p →
    (s.channel c).direction = some d → (s.channel c).area = some n →
    let x := s.channel c
    let small : Prop := 64 * (s.area n).count.getD 0 < 8 * slotCount (s.plan.activeTables.table d) c
    (x.state ≠ .halted → exec (.resume p) s = refusedWith p .state s) ∧
    (x.state = .halted → small → exec (.resume p) s = refusedWith p .areaSmall s) ∧
    (x.state = .halted → ¬small → x.queue = [] →
      exec (.resume p) s = doneWith p [1#8] (s.setChannel c { x with halt := none, state := .idle })) ∧
    (∀ o rest, x.state = .halted → ¬small → x.queue = o :: rest → o.gate = none →
      exec (.resume p) s = doneWith p [3#8] (s.setChannel c { x with halt := none, state := .active })) ∧
    (∀ o rest k, x.state = .halted → ¬small → x.queue = o :: rest → o.gate = some k →
      (s.cell k).value = 0#16 →
      exec (.resume p) s = doneWith p [2#8]
        ((s.setChannel c { x with halt := none, state := .waiting }).setCell k
          { s.cell k with waiters := (s.cell k).waiters ++ [c] })) ∧
    (∀ o rest k, x.state = .halted → ¬small → x.queue = o :: rest → o.gate = some k →
      (s.cell k).value ≠ 0#16 → (s.cell k).waiters = [] →
      ∃ t, exec (.resume p) s = doneWith p [3#8] t ∧
        t.channel c = { x with halt := none, state := .active } ∧
        t.cell k = ⟨(s.cell k).value - 1#16, []⟩ ∧
        (∀ e, e ≠ c → t.channel e = s.channel e) ∧ (∀ l, l ≠ k → t.cell l = s.cell l) ∧
        (∀ r, t.port r = (s.port r).recordChange k) ∧
        t = { s with channels := t.channels, cells := t.cells, ports := t.ports })

/-- CHANNEL STATUS returns the record of any channel, with its figures in the active bank, and changes
nothing (R126, R175); of a CLOSED channel three bytes are free and the rest stand (log entry 2). TAKE
COMPLETION takes the port's oldest record, or answers EMPTY (R164, R176). -/
def Obligations.ChannelReportsGiveRecords : Prop :=
  ∀ (p : Port) (s : State),
    let q := s.port p
    (engineTakes s p 0x45#8 = true →
      (7 < (param q 0).toNat → exec (.channelStatus p) s = refusedWith p .badParam s) ∧
      ∀ c : ChannelNo, (param q 0).toNat = c.val →
        let x := s.channel c
        let first := [channelStateField x.state, portField x.owner, directionField x.direction,
          numberField x.area, haltField x.halt, if x.loopPause then 1#8 else 0#8]
        let rest := [byteOf x.queue.length] ++
          (match x.queue with
            | [] => List.replicate 7 0#8
            | o :: _ => [o.tag] ++ fieldNat o.count ++ fieldNat o.moved ++
                [numberField o.gate, numberField o.completionCell]) ++ x.queue.tail.map Order.tag
        (∀ d, x.direction = some d →
          let t := s.plan.activeTables.table d
          exec (.channelStatus p) s = doneWith p (first ++ [byteOf (slotCount t c),
            numberField (leadSlot t c), byteOf (4 * slotCount t c)] ++ rest) s) ∧
        (x.direction = none → ∃ b0 b1 b2, exec (.channelStatus p) s =
          doneWith p (first ++ [b0, b1, b2] ++ rest) { s with freeNext := s.freeNext + 3 })) ∧
    (engineTakes s p 0x46#8 = true →
      (q.completions = [] → exec (.takeCompletion p) s =
        .next (complete p (Reply.empty (List.replicate 7 0#8 ++ [byteOf (16 - q.orderCount)])) s)) ∧
      ∀ r rest, q.completions = r :: rest → exec (.takeCompletion p) s = doneWith p
        [byteOf r.channel.val, r.tag, outcomeField r.outcome, lowByte (BitVec.ofNat 16 r.moved),
          highByte (BitVec.ofNat 16 r.moved), r.cycle, byteOf rest.length,
          byteOf (16 - q.orderCount - rest.length)]
        (s.setPort p { q with completions := rest }))

/-- The end of the head order, with any outcome (R127, steps 1 to 4): the order leaves the queue, its record
joins the owner's completion queue, the order count falls by one, COMPLETION is raised; DONE and SHORT
increment the completion cell, and no other outcome touches a cell. Where the end neither halts nor closes the
channel, the next order becomes current after that, or the channel is IDLE (R123; R127, step 5). -/
def Obligations.OrderEndRecordsOutcome : Prop :=
  ∀ (c : ChannelNo) (p : Port) (o : Order) (rest : List Order) (outcome : OrderOutcome) (s : State),
    (s.channel c).queue = o :: rest → (s.channel c).owner = some p →
    let t := endHead s c outcome
    let counts : Prop := outcome = .done ∨ outcome = .short
    (t.channel c).queue = rest ∧
    (t.port p).completions =
      (s.port p).completions ++ [⟨c, o.tag, outcome, o.moved, s.framer.cycle⟩] ∧
    (t.port p).orderCount = (s.port p).orderCount - 1 ∧ (t.port p).holds .completion = true ∧
    (¬counts ∨ o.completionCell = none → t.cells = s.cells ∧ (∀ q, q ≠ p → t.port q = s.port q) ∧
      t.channels = (s.setChannel c { s.channel c with queue := rest }).channels) ∧
    (counts → ∀ k, o.completionCell = some k → (s.cell k).waiters = [] →
      t.cell k = ⟨if (s.cell k).value = 0xFFFF#16 then 0xFFFF#16 else (s.cell k).value + 1#16, []⟩) ∧
    (counts → ∀ k w ws, o.completionCell = some k → (s.cell k).value = 0#16 →
      (s.cell k).waiters = w :: ws → t.cell k = ⟨0#16, ws⟩ ∧ (t.channel w).state = .active) ∧
    t = { s with channels := t.channels, ports := t.ports, cells := t.cells } ∧
    let waits (k : CellNo) : State := (t.setChannel c { t.channel c with state := .waiting }).setCell k
      { t.cell k with waiters := (t.cell k).waiters ++ [c] }
    (rest = [] → endAndAdvance s c outcome = t.setChannel c { t.channel c with state := .idle }) ∧
    (∀ next more, rest = next :: more → next.gate = none →
      endAndAdvance s c outcome = t.setChannel c { t.channel c with state := .active }) ∧
    (∀ next more k, rest = next :: more → next.gate = some k →
      endAndAdvance s c outcome = (gateRule (waits k) k).1 ∧
      ((t.cell k).value = 0#16 → endAndAdvance s c outcome = waits k) ∧
      ((t.cell k).value ≠ 0#16 → (t.cell k).waiters = [] →
        let u := endAndAdvance s c outcome
        u.channel c = { t.channel c with state := .active } ∧ u.cell k = ⟨(t.cell k).value - 1#16, []⟩ ∧
        (∀ d, d ≠ c → u.channel d = t.channel d) ∧ (∀ l, l ≠ k → u.cell l = t.cell l) ∧
        (∀ r, u.port r = (t.port r).recordChange k) ∧
        u = { t with channels := u.channels, cells := u.cells, ports := u.ports }))

/-! ## Cells -/

/-- The seven cell commands that name a cell (R143 to R147): the new value is written, and a command that
may raise the cell applies the gate rule in the same step; the result carries the old value, the value
after the takes, the takes, ZERO and CARRY. A cell or a bit above 15 is refused. -/
def Obligations.CellCommandsAnswer : Prop :=
  ∀ (p : Port) (s : State),
    let q := s.port p
    let v := wordOf (param q 1) (param q 2)
    let rows := [(Instr.cellRead p, 0x50#8), (.cellSet p, 0x51#8), (.cellExchange p, 0x52#8),
      (.cellAdd p, 0x53#8), (.cellTake p, 0x54#8), (.cellTestClear p, 0x55#8), (.cellSetBit p, 0x56#8)]
    (∀ r ∈ rows, engineTakes s p r.2 = true → 15 < (param q 0).toNat →
      exec r.1 s = refusedWith p .badParam s) ∧
    (∀ r ∈ rows, r.2 = 0x55#8 ∨ r.2 = 0x56#8 → engineTakes s p r.2 = true → 15 < (param q 1).toNat →
      exec r.1 s = refusedWith p .badParam s) ∧
    ∀ k : CellNo, (param q 0).toNat = k.val →
      let old := (s.cell k).value
      let answer (new : Word) (takes : Nat) (carry : Prop) [Decidable carry] : List Byte :=
        [lowByte old, highByte old, lowByte new, highByte new, byteOf takes,
          byteOf ((if new = 0#16 then 1 else 0) + (if carry then 2 else 0))]
      let plain (i : Instr) (new : Word) (carry : Prop) [Decidable carry] : Prop :=
        exec i s = doneWith p (answer new 0 carry) (s.writeCell k new)
      let raising (i : Instr) (new : Word) (carry : Prop) [Decidable carry] : Prop :=
        let r := gateRule (s.writeCell k new) k
        exec i s = doneWith p (answer (r.1.cell k).value r.2 carry) r.1
      (engineTakes s p 0x50#8 = true → exec (.cellRead p) s = doneWith p (answer old 0 False) s) ∧
      (engineTakes s p 0x51#8 = true → raising (.cellSet p) v False) ∧
      (engineTakes s p 0x52#8 = true → raising (.cellExchange p) v (old ≠ 0#16)) ∧
      (engineTakes s p 0x53#8 = true →
        raising (.cellAdd p) (BitVec.ofNat 16 (old.toNat + v.toNat)) (65536 ≤ old.toNat + v.toNat)) ∧
      (engineTakes s p 0x54#8 = true →
        plain (.cellTake p) (BitVec.ofNat 16 (old.toNat - 1)) (old = 0#16)) ∧
      ∀ b, (param q 1).toNat = b → b ≤ 15 →
        (engineTakes s p 0x55#8 = true →
          plain (.cellTestClear p) (old &&& ~~~BitVec.ofNat 16 (2 ^ b)) (old.getLsbD b = true)) ∧
        (engineTakes s p 0x56#8 = true →
          raising (.cellSetBit p) (old ||| BitVec.ofNat 16 (2 ^ b)) (old.getLsbD b = true))

/-- The gate rule (R149): as many of the oldest waiters as the value allows take one each, leave the list
and become ACTIVE; the others stay in their order; no other cell and no other channel changes; each take is
recorded (R153). A completion increment (R151) and a peer write (R152) are a write with this rule. -/
def Obligations.GateReleasesOldest : Prop :=
  (∀ (s : State) (k : CellNo), (s.cell k).waiters.Nodup →
    let n := min (s.cell k).value.toNat (s.cell k).waiters.length
    let t := (gateRule s k).1
    (gateRule s k).2 = n ∧ t.cell k = ⟨(s.cell k).value - BitVec.ofNat 16 n, (s.cell k).waiters.drop n⟩ ∧
    (∀ l, l ≠ k → t.cell l = s.cell l) ∧
    (∀ c, t.channel c =
      if c ∈ (s.cell k).waiters.take n then { s.channel c with state := .active } else s.channel c) ∧
    (∀ p, t.port p = if n = 0 then s.port p else (s.port p).recordChange k) ∧
    t = { s with channels := t.channels, ports := t.ports, cells := t.cells }) ∧
  (∀ (s : State) (k : CellNo), incrementCell s k = (gateRule (s.writeCell k
    (if (s.cell k).value = 0xFFFF#16 then 0xFFFF#16 else (s.cell k).value + 1#16)) k).1) ∧
  (∀ (s : State) (k : CellNo) (v : Word), peerWrite s k v = (gateRule (s.writeCell k v) k).1)

/-- A change of a cell's value is recorded on each watching port, which the cell joins in its changed set and
which gets CELL; a value that stays the same is no change (R153). CELL WATCH replaces the port's watch flags
(R153), and CELLS CHANGED returns the changed set and empties it (R154). -/
def Obligations.WatchesRecordChanges : Prop :=
  (∀ (s : State) (k : CellNo) (v : Word), (s.cell k).value = v → s.writeCell k v = s) ∧
  (∀ (s : State) (k : CellNo) (v : Word), (s.cell k).value ≠ v →
    let t := s.writeCell k v
    t.cell k = { s.cell k with value := v } ∧ (∀ l, l ≠ k → t.cell l = s.cell l) ∧
    (∀ p, (s.port p).watch.getLsbD k.val = false → t.port p = s.port p) ∧
    (∀ p, (s.port p).watch.getLsbD k.val = true →
      (∀ l : CellNo, (t.port p).changed.getLsbD l.val = ((s.port p).changed.getLsbD l.val || l == k)) ∧
      (∀ e, (t.port p).holds e = ((s.port p).holds e || e == .cell)) ∧
      t.port p = { s.port p with changed := (t.port p).changed, events := (t.port p).events }) ∧
    t = { s with ports := t.ports, cells := t.cells }) ∧
  (∀ (p : Port) (s : State),
    let q := s.port p
    let mask := wordOf (param q 0) (param q 1)
    (engineTakes s p 0x57#8 = true → exec (.cellWatch p) s = doneWith p
      [lowByte q.watch, highByte q.watch, lowByte mask, highByte mask, 0#8,
        if mask = 0#16 then 1#8 else 0#8] (s.setPort p { q with watch := mask })) ∧
    (engineTakes s p 0x58#8 = true → exec (.cellsChanged p) s = doneWith p
      [lowByte q.changed, highByte q.changed, 0#8, 0#8, 0#8, if q.changed = 0#16 then 1#8 else 0#8]
      (s.setPort p { q with changed := 0#16 })))

/-! ## Settings, the port reset and the transactions -/

/-- SETTINGS (R165, R166): READ returns the five settings; WRITE, in DOWN and with values in range, replaces
them together, empties the report queue when the service port changes, and answers a WAKE being heard when
auto-answer is turned on. An auto-answer byte other than 0 is on (log entry 14), and both rows refuse an
operation byte that names none (log entry 8). -/
def Obligations.SettingsReadAndWrite : Prop :=
  ∀ (p : Port) (s : State), engineTakes s p 0x60#8 = true →
    let q := s.port p
    let bytes (x : Settings) : List Byte :=
      [modeField x.mode, filterField x.filter, portNumber x.servicePort,
        if x.autoAnswer then 1#8 else 0#8, lowByte x.peerWritable, highByte x.peerWritable]
    (param q 0 = 0#8 → exec (.settingsRead p) s = doneWith p (bytes s.settings) s) ∧
    (2 ≤ (param q 0).toNat → exec (.settingsRead p) s = refusedWith p .badParam s ∧
      exec (.settingsWrite p) s = refusedWith p .badParam s) ∧
    (param q 0 = 1#8 → s.link.state ≠ .down → exec (.settingsWrite p) s = refusedWith p .linkBusy s) ∧
    (param q 0 = 1#8 → s.link.state = .down →
      1 < (param q 1).toNat ∨ 2 < (param q 2).toNat ∨ param q 3 = 0#8 ∨ 3 < (param q 3).toNat →
      exec (.settingsWrite p) s = refusedWith p .badParam s) ∧
    (∀ m f r, param q 0 = 1#8 → s.link.state = .down → mode? (param q 1) = some m →
      filter? (param q 2) = some f → port? (param q 3) = some r →
      let x : Settings := ⟨m, f, r, param q 4 != 0#8, wordOf (param q 5) (param q 6)⟩
      let t := { s with
        settings := x
        service := if s.settings.servicePort = r then s.service
          else { s.service with reports := [], overflow := false } }
      exec (.settingsWrite p) s = doneWith p (bytes x) (
        if s.settings.autoAnswer = false ∧ x.autoAnswer = true ∧ s.link.wakeHeard = true then
          { t with
            link := { t.link with state := .answering, toneTimer := some .answer }
            framer := { t.framer with line := .answerTone } }
        else t))

/-- PORT RESET (R169, R121, R113, R79): the port's channels are closed without outcomes and its areas are
released, its WAITING channels, and no others, leave their waiter lists (R148), its claim is removed as LINK
DOWN removes it, its watches, changed set, completion queue, order count, events and mask are emptied, and the
report queue when it is the service port; the shadow bank loses the closed channels, or while an exchange is
in flight they await its end. The parameter block, the pool, the settings, every cell value and the other
ports are kept. -/
def Obligations.PortResetReleasesPort : Prop :=
  ∀ (p : Port) (s : State), engineTakes s p 0x7F#8 = true →
    let own (c : ChannelNo) : Prop := (s.channel c).state ≠ .closed ∧ (s.channel c).owner = some p
    ∃ t, exec (.portReset p) s = doneWith p [] t ∧
      (∀ c, own c → t.channel c = ⟨.closed, none, none, none, [], none, false⟩) ∧
      (∀ c, ¬own c → t.channel c = s.channel c) ∧
      (∀ n, (s.area n).holder = some p → t.area n = ⟨.undefined, none, none, none, 0, 0, 0, none⟩) ∧
      (∀ n, (s.area n).holder ≠ some p →
        (∀ c, own c → (s.channel c).area ≠ some n) → t.area n = s.area n) ∧
      t.port p = { s.port p with
        watch := 0#16, changed := 0#16, completions := [], orderCount := 0, events := 0#16, mask := 0#16 } ∧
      (∀ q, q ≠ p → t.port q = s.port q) ∧ (∀ k, (t.cell k).value = (s.cell k).value) ∧
      (∀ k, (t.cell k).waiters = (s.cell k).waiters.filter fun c => !((s.channel c).owner == some p &&
        (s.channel c).state == .waiting && (s.channel c).queue.head?.bind Order.gate == some k)) ∧
      t.link = (removeClaim p s).link ∧ t.framer = (removeClaim p s).framer ∧
      t.exchange = (removeClaim p s).exchange ∧ t.link.claims = s.link.claims.set p false ∧
      t.service = (if s.settings.servicePort = p then
        { s.service with reports := [], overflow := false } else s.service) ∧
      t.plan.active = s.plan.active ∧ t.plan.activeTables = s.plan.activeTables ∧
      t.plan.receive = s.plan.receive ∧ t.plan.retained = s.plan.retained ∧
      (s.exchange.state ≠ .idle → t.plan.shadowTables = s.plan.shadowTables ∧
        ∀ c, t.plan.pendingClear[c.val] = true ↔ s.plan.pendingClear[c.val] = true ∨ own c) ∧
      (s.exchange.state = .idle → t.plan.pendingClear = s.plan.pendingClear ∧
        ∀ (d : Direction) (i : SlotNo), (t.plan.shadowTables.table d)[i.val] =
          match (s.plan.shadowTables.table d)[i.val] with
          | some c => if (s.channel c).state ≠ .closed ∧ (s.channel c).owner = some p then none else some c
          | none => none) ∧
      t = { s with framer := t.framer, link := t.link, service := t.service, plan := t.plan
                   exchange := t.exchange, areas := t.areas, channels := t.channels, cells := t.cells
                   ports := t.ports }

/-- The transactions of a port (R155 to R158, R162, R163, R168, R171, R172). What the whole transactions on
COMMAND, PARAMETER, EVENTS and MASK do, and one that meets no target (log entry 18): each ends with SELn high
and SDOn high-impedance. How a header names a window and a direction; the rows that the bits of a transaction
make (log entry 19); the bytes that SDOn carries over a read, those of STATUS, RESULT and EVENTS fixed with
the first data byte and those of PARAMETER, MASK and the data windows each as it begins. SDOn carries a byte
only in a transaction that the port takes (log entry 27), through every step. INTn is asserted exactly while
the event set and the mask have an event in common (R163). -/
def Obligations.PortWritesAct : Prop :=
  (∀ (p : Port) (s : State),
    let q := s.port p
    let ended (q : PortState) : Host.Outcome State Fault Refusal :=
      .next (s.setPort p { q with transaction := .off, sdo := none })
    (∀ code rest, exec (.commandWrite p (code :: rest)) s = ended (
      if q.command ≠ .pending then { q with command := .pending, code := code }
      else if code = 0x7F#8 then { q with code := code }
      else q.raise .cmdOverrun)) ∧
    (∀ offset data, data ≠ [] → q.command = .pending →
      exec (.parameterWrite p offset data) s = ended (q.raise .cmdOverrun)) ∧
    (∀ (offset : Byte) (data : List Byte), q.command ≠ .pending →
      ∃ parameters : Vector Byte 24,
        exec (.parameterWrite p offset data) s = ended { q with parameters := parameters } ∧
        ∀ i : Fin 24, parameters[i.val] =
          if offset.toNat ≤ i.val ∧ i.val < offset.toNat + data.length then
            data.getD (i.val - offset.toNat) 0#8
          else q.parameters[i.val]) ∧
    (∀ lo hi rest, exec (.eventsWrite p (lo :: hi :: rest)) s =
        ended { q with events := q.events &&& ~~~wordOf lo hi } ∧
      exec (.maskWrite p (lo :: hi :: rest)) s = ended { q with mask := wordOf lo hi &&& 0x3FFF#16 }) ∧
    (∀ data, data.length < 2 →
      exec (.eventsWrite p data) s = ended q ∧ exec (.maskWrite p data) s = ended q) ∧
    (∀ header data, headerMeetsNoTarget header = true → exec (.noTargetAccess p header data) s =
      ended (if header = 0x03#8 ∧ data = [] then q else q.raise .access)) ∧
    (q.eventsInRange →
      (q.interruptAsserted = true ↔ ∃ e : Event, q.holds e = true ∧ q.mask.getLsbD e.bit = true))) ∧
  (accessOf 0x00#8 = .write .command ∧ accessOf 0x81#8 = .read .status ∧
    accessOf 0x02#8 = .write .parameter ∧ accessOf 0x82#8 = .read .parameter ∧
    accessOf 0x83#8 = .read .result ∧ accessOf 0x04#8 = .write .events ∧ accessOf 0x84#8 = .read .events ∧
    accessOf 0x05#8 = .write .mask ∧ accessOf 0x85#8 = .read .mask ∧
    (∀ c : ChannelNo, accessOf (byteOf (6 + c.val)) = .write (.data c) ∧
      accessOf (byteOf (134 + c.val)) = .read (.data c)) ∧
    ∀ header, accessOf header = .noTarget ↔ headerMeetsNoTarget header = true) ∧
  (∀ (p : Port) (bits : List Bool), bits.length < 8 → transactionRows p bits = []) ∧
  (∀ (p : Port) (header : Byte) (data : List Byte) (part : List Bool), part.length < 8 →
    let carried (b : Byte) : List Bool := [b.getLsbD 7, b.getLsbD 6, b.getLsbD 5, b.getLsbD 4, b.getLsbD 3,
      b.getLsbD 2, b.getLsbD 1, b.getLsbD 0]
    let rows := transactionRows p ((header :: data).flatMap carried ++ part)
    let begun := data.length + if part = [] then 0 else 1
    (headerMeetsNoTarget header = true → rows = [.noTargetAccess p header data]) ∧
    (header = 0x00#8 → rows = if data = [] then [] else [.commandWrite p data]) ∧
    (header = 0x02#8 → rows = match data with
      | [] => []
      | [_] => []
      | offset :: b :: rest => [.parameterWrite p offset (b :: rest)]) ∧
    (header = 0x04#8 → rows = if data = [] then [] else [.eventsWrite p data]) ∧
    (header = 0x05#8 → rows = if data = [] then [] else [.maskWrite p data]) ∧
    (header ∈ [0x81#8, 0x82#8, 0x83#8, 0x84#8, 0x85#8] → rows = []) ∧
    ∀ c : ChannelNo,
      (header = byteOf (6 + c.val) → rows.length = data.length ∧ ∀ i (h : i < data.length),
        rows[i]? = some (.dataWindowWrite p c ⟨data[i], i == 0, i + 1 == data.length⟩)) ∧
      (header = byteOf (134 + c.val) → rows.length = begun ∧ ∀ i, i < begun →
        rows[i]? = some (.dataWindowRead p ⟨c, i == 0, i + 1 == begun⟩))) ∧
  (∀ (p : Port) (offset : Byte) (first : State) (later : List State),
    let moments := first :: later
    let q := first.port p
    let padded (bytes : List Byte) : List Byte :=
      (bytes ++ List.replicate moments.length 0#8).take moments.length
    shiftedOut p 0x81#8 offset moments = 0#8 :: padded [byteOf ((match q.command with
        | .idle => 0
        | .pending => 64
        | .done => 128
        | .failed => 192) + q.resultCode.number), q.code, byteOf q.completions.length, byteOf q.orderCount] ∧
    shiftedOut p 0x83#8 offset moments = 0#8 :: 0#8 :: padded (q.result.toList.drop offset.toNat) ∧
    shiftedOut p 0x84#8 offset moments = 0#8 :: padded [lowByte q.events, highByte q.events] ∧
    (∀ (i : Nat) (now : State), moments[i]? = some now →
      (shiftedOut p 0x82#8 offset moments).take 2 = [0#8, 0#8] ∧
      (shiftedOut p 0x82#8 offset moments)[i + 2]? =
        some ((now.port p).parameters.toList.getD (offset.toNat + i) 0#8) ∧
      (shiftedOut p 0x85#8 offset moments)[0]? = some 0#8 ∧
      (shiftedOut p 0x85#8 offset moments)[i + 1]? =
        some ([lowByte (now.port p).mask, highByte (now.port p).mask].getD i 0#8) ∧
      ∀ c : ChannelNo, (shiftedOut p (byteOf (134 + c.val)) offset moments)[0]? = some 0#8 ∧
        ∃ b t, (shiftedOut p (byteOf (134 + c.val)) offset moments)[i + 1]? = some b ∧
          exec (.dataWindowRead p ⟨c, true, true⟩) now = .next t ∧ (t.port p).sent = [b]) ∧
    (shiftedOut p 0x82#8 offset moments).length = moments.length + 2 ∧
    (∀ header, headerMeetsNoTarget header = true →
      shiftedOut p header offset moments = 0#8 :: List.replicate moments.length 0#8) ∧
    ∀ header, header = 0x85#8 ∨ (∃ c : ChannelNo, header = byteOf (134 + c.val)) →
      (shiftedOut p header offset moments).length = moments.length + 1) ∧
  (∀ s t : State, SdoFollowsSelect s → step s = .next t → SdoFollowsSelect t)

/-! ## Frames -/

/-- The cycle check (R9): the step of one bit, a byte most significant bit first, bytes in order, the
starting value, and what a frame's payload and service byte add; the check of the nine digits. -/
def Obligations.CheckComputes : Prop :=
  checkStart = 0xFFFF#16 ∧
  (∀ (r : Word) (d : Bool), checkBit r d =
    if r.getLsbD 15 ≠ d then (r <<< 1) ^^^ 0x1021#16 else r <<< 1) ∧
  (∀ (b : Byte) (r : Word), checkByte b r =
    [b.getLsbD 7, b.getLsbD 6, b.getLsbD 5, b.getLsbD 4, b.getLsbD 3, b.getLsbD 2, b.getLsbD 1,
      b.getLsbD 0].foldl checkBit r) ∧
  (∀ (bs : List Byte) (r : Word), checkBytes bs r = bs.foldl (fun r b => checkByte b r) r) ∧
  (∀ (f : FrameNo) (payload : Payload) (service : Byte) (r : Word),
    checkFrame f payload service r =
      checkBytes (if f.val ≤ 9 then payload.toList ++ [service] else payload.toList) r) ∧
  (∀ (f : FrameNo) (payload : Payload) (s : State), (sendFrame f payload s).framer.outCheck =
    s.framer.outCheck.map (checkFrame f payload (s.framer.serviceByte f))) ∧
  (∀ (payload : Payload) (service : Byte) (s : State), (gatherFrame payload service s).framer.inCheck =
    checkFrame s.framer.dueFrame payload service s.framer.inCheck) ∧
  checkBytes [0x31#8, 0x32#8, 0x33#8, 0x34#8, 0x35#8, 0x36#8, 0x37#8, 0x38#8, 0x39#8] checkStart =
    0x29B1#16

/-- An outbound frame starts (R1, R3, R4, R10, R74, R87, R128): at the Clock end at any time, at the Follow end
with the received frame of its number, and it then completes in every state; where no frame may begin it
changes nothing (log entry 4). The frame number goes on, the cycle number rises with frame 0 unless a step of
this cycle start has raised it, and the READY wait, the OFFERED count and the bad-checks start with it; what is
then due is done, in the model's order (R34, R37, R41, R61, R85, R93, R97; log entries 5 and 13). While
frames are sent the line carries the marker, the payload and the service byte, and the check takes them in.
Looped slots carry the frame handed over last; slots without a channel, and every slot in a link state other
than UP, carry 0x00; the other slots carry the units formed at this frame, one channel after another in the
order of the step, each unit's bytes through its channel's slots in rising order, and 0x00 beyond them. The
units are formed from the state after what falls due at a cycle start, the service byte's part and the loop
pauses, in which each open OUT channel's pause follows the loop set, with LOOPED to its owner at a change. In
the other frames of a cycle nothing beyond this changes in the plan, the settings and the link, and in the
exchange only the target cycle, by the AGREE that enters position B. -/
def Obligations.FrameStartSends : Prop :=
  ∀ (order : ChannelOrder) (s : State),
    let f : FrameNo := s.framer.outFrame + 1
    let may : Prop := s.framer.role = .clock ∨ (framesSent s = true ∧ s.framer.dueFrame = f)
    let opened : State := if s.framer.cycleOpen = true then s else { s with
      framer := { s.framer with cycle := s.framer.cycle + 1#8, cycleOpen := true }
      link := { s.link with readyWait := s.link.readyWait.map fun n => min 50 (n + 1) }
      exchange := { s.exchange with
        count := if s.exchange.state = .offered then min 48 (s.exchange.count + 1) else s.exchange.count }
      service := { s.service with badStart := s.service.badStart.map fun n => min 4 (n + 1) } }
    let waited (x : State) : State :=
      if x.link.state = .synced ∧ 50 ≤ x.link.readyWait.getD 0 then
        (enterDown order { x with link := { x.link with
          tryCount := min 5 (x.link.tryCount + 1)
          lastFailure := if 4 ≤ x.link.tryCount then .wakeFailed else .readyTimeout } }).raiseAll .link
      else x
    let left (x : State) : State :=
      if x.link.state = .leaving ∧ 4 ≤ x.link.leavingCount.getD 0 then (enterDown order x).raiseAll .link else x
    let begun (x : State) : State :=
      if 4 ≤ x.service.badStart.getD 0 then { x with
        service := { x.service with badStart := none }, framer := { x.framer with badChecks := true } }
      else x
    let timed (x : State) : State :=
      if x.exchange.state = .offered ∧ 48 ≤ x.exchange.count then
        endExchange (if offerQueued x then x else appendPlan x ⟨0#4, .order, 0x13#8, 0#16⟩) .timeout none false
      else x
    let switched (x : State) : State :=
      match x.exchange.target with
      | some target =>
        if x.exchange.state = .scheduled ∧
            (target = x.framer.cycle ∨ 16 < (target - x.framer.cycle).toNat) then
          endExchange (checkAreas order (swapBanks x))
            (if x.exchange.side = some .agreer then .peerSwitched else .switched) none true
        else x
      | none => x
    let adopted (x : State) : State :=
      if x.framer.role = .follow ∧ x.exchange.adopt ≠ none then
        let y := checkAreas order (if x.exchange.adopt = some x.plan.active then x else swapBanks x)
        State.raiseAll { y with exchange := { y.exchange with
          adopt := none, last := some ⟨.adopted, none, some .peer, x.framer.cycle⟩ } } .plan
      else x
    let w : State := if f = 0 then runDue order (openCycle s) else s
    let u : State := updateLoopPauses (beginService f (setOutFrame f w))
    let r := formUnits (channelOrder order) (Vector.replicate 8 [], u)
    let looped (c : ChannelNo) : Prop :=
      ∃ i : SlotNo, u.plan.activeTables.out[i.val] = some c ∧ u.service.loopSet[i.val] = true
    (openCycle s = opened ∧
      runDue order (openCycle s) = adopted (switched (timed (begun (left (waited opened)))))) ∧
    (¬may → exec (.outboundFrameStart order) s = .next s) ∧
    (may → ∃ t, exec (.outboundFrameStart order) s = .next t ∧ t.framer.outFrame = f ∧
      t.framer.cycle =
        (if f = 0 ∧ s.framer.cycleOpen = false then s.framer.cycle + 1#8 else s.framer.cycle) ∧
      (f = 0 → t.framer.cycleOpen = false) ∧
      (framesSent t = true → ∃ payload service,
        t.framer.line = .frame (if f = 0 then 0x2D#8 else 0x1B#8) payload service ∧
        t.framer.outCheck = (if f = 0 then some 0xFFFF#16 else s.framer.outCheck).map
          (checkFrame f payload service) ∧
        ∀ (i : SlotNo) (j : Fin 4),
          (t.service.loopSet[i.val] = true → payload[4 * i.val + j.val] =
            match t.framer.lastHanded with
            | some handed => if t.link.state = .resync then 0#8 else handed[4 * i.val + j.val]
            | none => 0#8) ∧
          (t.service.loopSet[i.val] = false →
            t.plan.activeTables.out[i.val] = none ∨ t.link.state ≠ .up ∨ t.exchange.mismatch = true →
            payload[4 * i.val + j.val] = 0#8) ∧
          (t.service.loopSet[i.val] = false → ∀ c, t.plan.activeTables.out[i.val] = some c →
            payload[4 * i.val + j.val] = r.1[c.val].getD (j.val + 4 * ((List.finRange 24).filter
              fun k => k < i ∧ t.plan.activeTables.out[k.val] = some c).length) 0#8)) ∧
      (s.framer.role = .clock ∨ framesSent t = true →
        t.channels = r.2.channels ∧ t.areas = r.2.areas ∧ t.pool = r.2.pool ∧ t.cells = r.2.cells ∧
        t.ports = r.2.ports ∧ t.link = u.link ∧ t.plan = u.plan ∧ t.exchange = u.exchange ∧
        t.service = u.service ∧ t.settings = w.settings ∧
        t.framer = { u.framer with line := t.framer.line, outCheck := t.framer.outCheck } ∧
        u.areas = w.areas ∧ u.pool = w.pool ∧ u.cells = w.cells ∧
        (∀ c, ((w.channel c).direction = some .out →
            u.channel c = { w.channel c with loopPause := decide (looped c) }) ∧
          ((w.channel c).direction ≠ some .out → u.channel c = w.channel c)) ∧
        ∀ p, u.port p =
          if ∃ c, (w.channel c).owner = some p ∧ (u.channel c).loopPause ≠ (w.channel c).loopPause then
            (w.port p).raise .looped
          else w.port p) ∧
      (f ≠ 0 → t.plan = s.plan ∧
        (let fixes : Prop := f = 6 ∧ framesSent s = true ∧ 3 ≤ s.service.hold ∧
          (∃ a, s.service.answer = some a ∧ a.source = .plan ∧ a.message.code = 0x11#8) ∧
          s.exchange.state = .scheduled ∧ s.exchange.side = some .agreer ∧ s.exchange.target = none
        (¬fixes → t.exchange = s.exchange) ∧
        (fixes → t.exchange = { s.exchange with target := some (s.framer.cycle + 16#8) })) ∧
        t.settings = s.settings ∧
        t.lastServed = s.lastServed ∧ t.link = { s.link with leavingCount := t.link.leavingCount } ∧
        (framesSent s = false → t.framer.line = s.framer.line))) ∧
    (∀ (c : ChannelNo) (cs : List ChannelNo) (units : FrameUnits) (u : State),
      formUnits [] (units, u) = (units, u) ∧
      formUnits (c :: cs) (units, u) = formUnits cs (units.set c.val (formUnit u c).1, (formUnit u c).2))

/-- The service byte of each frame of a cycle (R7, R8, R10, R14, R37, R178, R179): the step completes for
the Clock end at any time and for the Follow end with the received frame of its number, and where it sends
a frame, the service byte is the position's message in frames 0 to 3 and 6 to 9, the status field composed
at frame 4 and sent in frames 4 and 5, the previous cycle's check, inverted under bad-checks, in frames 10
and 11. FAR_ERROR is cleared and LEAVING counted as frame 5 goes out (log entry 10). Frames 0 and 6 that are
sent are the position boundaries, taken after what falls due at a cycle start (R46, R47; log entry 5); in every
other frame, and where no frame is sent, the service channel and the exchange are kept. -/
def Obligations.ServiceByteCarries : Prop :=
  ∀ (order : ChannelOrder) (s : State),
    s.framer.role = .clock ∨ (framesSent s = true ∧ s.framer.dueFrame = s.framer.outFrame + 1) →
    let next : FrameNo := s.framer.outFrame + 1
    let w : State := if next = 0 then runDue order (openCycle s) else s
    ∃ t, exec (.outboundFrameStart order) s = .next t ∧
    (framesSent w = true → next = 0 ∨ next = 6 →
      t.service = (positionBoundary w).service ∧ t.exchange = (positionBoundary w).exchange) ∧
    (framesSent w = false ∨ (next ≠ 0 ∧ next ≠ 6) → t.service = w.service ∧ t.exchange = w.exchange) ∧
    ∀ (marker service : Byte) (payload : Payload), framesSent t = true →
    t.framer.line = .frame marker payload service →
    let f := t.framer.outFrame
    let m := t.framer.positionMessage
    let bytes : List Byte := [byteOf (16 * m.target.toNat + if m.kind = .value then 1 else 0), m.code,
      lowByte m.argument, highByte m.argument]
    (f = 0 ∨ f = 6 → m = t.service.slot) ∧
    (f ≠ 0 → f ≠ 6 → m = s.framer.positionMessage) ∧
    (f.val < 4 → bytes[f.val]? = some service) ∧
    (6 ≤ f.val → f.val < 10 → bytes[f.val - 6]? = some service) ∧
    (f = 4 →
      flagSet service .ready = (t.link.state == .synced || t.link.state == .up ||
        t.link.state == .resync || t.link.state == .leaving) ∧
      flagSet service .demand = (t.link.claims.p1 || t.link.claims.p2 || t.link.claims.p3) ∧
      flagSet service .leaving = (t.link.state == .leaving) ∧
      flagSet service .farError = t.framer.farErrorToSend ∧
      flagSet service .bank = (t.plan.active == .b1) ∧
      (flagSet service .looping = true ↔ ∃ i : SlotNo, t.service.loopSet[i.val] = true) ∧
      flagSet service .clockRole = (t.framer.role == .clock) ∧ service.msb = false ∧
      t.framer.statusFlags = service ∧ t.framer.statusCycle = t.framer.cycle) ∧
    (f = 5 → service = s.framer.statusCycle ∧
      t.framer.farErrorToSend = (s.framer.farErrorToSend && !flagSet s.framer.statusFlags .farError) ∧
      t.link.leavingCount = if flagSet s.framer.statusFlags .leaving = true then
        s.link.leavingCount.map (fun n => min 4 (n + 1)) else s.link.leavingCount) ∧
    (f = 10 → t.framer.checkField = (if s.framer.badChecks then ~~~s.framer.lastCheck
      else s.framer.lastCheck) ∧ service = lowByte t.framer.checkField) ∧
    (f = 11 → service = highByte s.framer.checkField) ∧
    (f = 0 → t.framer.lastCheck = s.framer.outCheck.getD s.framer.lastCheck)

/-- The steps of a cycle start taken by themselves (R4, R34, R37, R61, R85, R93, R97): each enters the cycle,
which raises the cycle number and the three counts once, and acts when it is due there; not due, or with no
cycle start at hand, it changes nothing (log entries 4 and 5). The READY wait at 50 fails the try: the count
rises, the reason is READY_TIMEOUT, or WAKE_FAILED when the count then stands at 5 (R41; log entry 13), and the
link enters DOWN with LINK to all ports. -/
def Obligations.CycleStepsAct : Prop :=
  ∀ (order : ChannelOrder) (s : State),
    let u : State := if s.framer.cycleOpen then s else { s with
      framer := { s.framer with cycle := s.framer.cycle + 1#8, cycleOpen := true }
      link := { s.link with readyWait := s.link.readyWait.map fun n => min 50 (n + 1) }
      exchange := { s.exchange with
        count := if s.exchange.state = .offered then min 48 (s.exchange.count + 1) else s.exchange.count }
      service := { s.service with badStart := s.service.badStart.map fun n => min 4 (n + 1) } }
    let entering : Prop := s.framer.cycleOpen = true ∨ (s.framer.outFrame = 11 ∧
      (s.framer.role = .clock ∨ (framesSent s = true ∧ s.framer.dueFrame = 0)))
    let acts (i : Instr) (due : Prop) (t : State) : Prop :=
      (entering → due → exec i s = .next t) ∧ (¬(entering ∧ due) → exec i s = .next s)
    let withdrawn : State := if offerQueued u then u else appendPlan u ⟨0#4, .order, 0x13#8, 0#16⟩
    let swapped := checkAreas order (swapBanks u)
    let adopted := checkAreas order (if u.exchange.adopt = some u.plan.active then u else swapBanks u)
    acts (.readyWaitExpiry order) (u.link.state = .synced ∧ ∃ n, u.link.readyWait = some n ∧ 50 ≤ n)
      ((enterDown order { u with link := { u.link with
        tryCount := min 5 (u.link.tryCount + 1)
        lastFailure := if 4 ≤ u.link.tryCount then .wakeFailed else .readyTimeout } }).raiseAll .link) ∧
    acts (.leavingComplete order) (u.link.state = .leaving ∧ ∃ n, u.link.leavingCount = some n ∧ 4 ≤ n)
      ((enterDown order u).raiseAll .link) ∧
    acts .badChecksStartExpiry (∃ n, u.service.badStart = some n ∧ 4 ≤ n)
      { u with
        service := { u.service with badStart := none }, framer := { u.framer with badChecks := true } } ∧
    acts .planTimeout (u.exchange.state = .offered ∧ 48 ≤ u.exchange.count)
      (endExchange withdrawn .timeout none false) ∧
    acts (.planSwap order) (u.exchange.state = .scheduled ∧ ∃ target, u.exchange.target = some target ∧
        (target = u.framer.cycle ∨ 16 < (target - u.framer.cycle).toNat))
      (endExchange swapped (if u.exchange.side = some .agreer then .peerSwitched else .switched) none
        true) ∧
    acts (.bankAdoption order) (u.framer.role = .follow ∧ u.exchange.adopt ≠ none)
      (({ adopted with exchange := { adopted.exchange with
        adopt := none, last := some ⟨.adopted, none, some .peer, u.framer.cycle⟩ } }).raiseAll .plan)

/-- A received frame at its expected place (R1, R5, R6, R11, R12, R18, R37, R69, R138), with alignment kept or,
in LEAVING, its loss disregarded: its marker is judged, its payload and service byte are taken in, and in
SYNCED, UP and LEAVING the payload is handed over, to the channels in UP alone. In ALIGNING nothing is handed
over, and the Follow end takes the cycle number of its first cycle provisionally. With frame 11 the payload
is handed over first, the model's choice (log entry 11), then the check pending, if there is one, decides,
and the cycle's own check is then pending, unless the decision has ended framing. Where the outbound frame of
its number has not begun at the Follow end, that frame begins first, the model's choice (log entry 9). Without
framing nothing changes (log entry 4). At the frame-0 place the receive bank follows the active bank, and the
inbound table retained by a swap is done with (log entry 30). -/
def Obligations.ReceivedFrameReads : Prop :=
  ∀ (marker service : Byte) (payload : Payload) (order : ChannelOrder) (s : State),
    let f := s.framer.dueFrame
    let good : Prop := marker = if f = 0 then 0x2D#8 else 0x1B#8
    let opened : SlotPlan :=
      if f = 0 then { s.plan with receive := s.plan.active, retained := none } else s.plan
    let gathered : ReceivedCycle :=
      if f = 0 then ⟨Vector.replicate 12 0#8, s.plan.active⟩ else s.framer.receiving
    let receiving : ReceivedCycle := { gathered with service := gathered.service.set f.val service }
    let inCheck := checkFrame f payload service (if f = 0 then 0xFFFF#16 else s.framer.inCheck)
    let framer : Framer := { s.framer with
      badRun := if marker = (if f = 0 then 0x2D#8 else 0x1B#8) then 0 else min 3 (s.framer.badRun + 1)
      goodRun := if marker = (if f = 0 then 0x2D#8 else 0x1B#8) then min 2 (s.framer.goodRun + 1) else 0
      inCheck := inCheck, receiving := receiving, lastHanded := some payload }
    let u : State := { s with framer := framer, plan := opened }
    let read := exec (.receivedFrame marker payload service order) s
    (s.framer.framed = false → read = .next s) ∧
    (s.framer.framed = true → s.framer.role = .follow → framesSent s = true → s.framer.outFrame + 1 = f →
      ∃ t, exec (.outboundFrameStart order) s = .next t ∧ t.framer.outFrame = f ∧
        (t.framer.framed = true → t.framer.dueFrame = f) ∧
        read = exec (.receivedFrame marker payload service order) t) ∧
    (s.framer.framed = true →
      s.framer.role = .clock ∨ framesSent s = false ∨ s.framer.outFrame + 1 ≠ f →
      s.link.state = .synced ∨ s.link.state = .up ∨ s.link.state = .leaving →
      good ∨ s.framer.badRun < 2 ∨ s.link.state = .leaving →
      (f.val < 11 → s.link.state ≠ .up ∨ s.exchange.mismatch = true →
        read = .next { u with framer := { framer with dueFrame := f + 1 } }) ∧
      (f.val < 11 → s.link.state = .up → s.exchange.mismatch = false →
        let d := (channelOrder order).foldl (deliverChannel payload) u
        read = .next { d with framer := { framer with dueFrame := f + 1 } }) ∧
      (f = 11 → s.framer.pendingCheck = none → s.link.state ≠ .up →
        read = .next { u with framer := { framer with
          dueFrame := 0, firstCycle := false
          pendingCheck := some ⟨inCheck, receiving, s.framer.cycle⟩ } })) ∧
    (s.framer.framed = true →
      s.framer.role = .clock ∨ framesSent s = false ∨ s.framer.outFrame + 1 ≠ f →
      good ∨ s.framer.badRun < 2 ∨ s.link.state = .leaving →
      s.link.state = .aligning ∨ s.link.state = .synced ∨ s.link.state = .up ∨ s.link.state = .leaving →
      let held : State := { u with framer := { framer with lastHanded := s.framer.lastHanded } }
      let taken : State :=
        if s.link.state = .aligning then held
        else if s.link.state = .up ∧ s.exchange.mismatch = false then
          (channelOrder order).foldl (deliverChannel payload) u
        else u
      (f.val < 11 → s.link.state = .aligning → read = .next { held with framer := { held.framer with
        dueFrame := f + 1
        cycle := if s.framer.role = .follow ∧ s.framer.firstCycle = true ∧ f = 5 then service
          else s.framer.cycle } }) ∧
      (f = 11 →
        let decided := decideCycle order taken
        read = .next { decided with framer :=
          if decided.framer.framed = true then { decided.framer with
            dueFrame := 0, firstCycle := false
            pendingCheck := some ⟨inCheck, receiving, decided.framer.cycle⟩ }
          else { decided.framer with dueFrame := 0 } }))

/-- Alignment lost and regained (R6, R32, R34, R37, R38, R39, R41, R42, R54, R95), at the third bad marker
running, with no outbound frame to begin with the place: RESYNC from UP; in SYNCED a failed try, the entry into
DOWN with LINK to all ports and the reason LOST, or WAKE_FAILED when the count then stands at 5 (log entry 13);
no framing in ALIGNING, where the Follow end's line is quiet at once (log entry 29). In RESYNC the places are
counted, the frame-0 place with a good marker after two good ones brings UP back, and the 40th place without it
enters DOWN with LOST and LINK to all ports. -/
def Obligations.AlignmentLossAndReturn : Prop :=
  ∀ (marker service : Byte) (payload : Payload) (order : ChannelOrder) (s : State),
    let f := s.framer.dueFrame
    let good : Prop := marker = if f = 0 then 0x2D#8 else 0x1B#8
    let opened : SlotPlan :=
      if f = 0 then { s.plan with receive := s.plan.active, retained := none } else s.plan
    let judged : State := { s with
      plan := opened
      framer := { s.framer with
        badRun := if marker = (if f = 0 then 0x2D#8 else 0x1B#8) then 0 else min 3 (s.framer.badRun + 1)
        goodRun := if marker = (if f = 0 then 0x2D#8 else 0x1B#8) then min 2 (s.framer.goodRun + 1) else 0
        inCheck := if f = 0 then 0xFFFF#16 else s.framer.inCheck
        receiving := if f = 0 then ⟨Vector.replicate 12 0#8, s.plan.active⟩ else s.framer.receiving } }
    let place := exec (.receivedFrame marker payload service order) s
    s.framer.framed = true → s.framer.role = .clock ∨ framesSent s = false ∨ s.framer.outFrame + 1 ≠ f →
    (¬good → s.framer.badRun = 2 →
      (s.link.state = .up → ∃ t, place = .next t ∧
        t.link = { s.link with state := .resync, resyncCount := some 0 } ∧
        t.framer.pendingCheck = none ∧ t.framer.disagreeRun = 0 ∧ t.framer.badRun = 3 ∧
        t.framer.goodRun = 0 ∧ t.framer.dueFrame = f + 1 ∧ t.framer.framed = true ∧
        t.service = { s.service with look := none } ∧
        t.exchange = { s.exchange with mismatchRun := 0 } ∧
        t = { s with framer := t.framer, link := t.link, service := t.service, exchange := t.exchange,
                     plan := opened }) ∧
      (s.link.state = .synced → ∃ t, place = .next t ∧
        t.link.state ≠ .synced ∧ t.framer.framed = false ∧
        t.link.tryCount = min 5 (s.link.tryCount + 1) ∧
        t.link.lastFailure = (if 4 ≤ s.link.tryCount then .wakeFailed else .lost) ∧
        (∀ p, (t.port p).holds .link = true) ∧
        t = (enterDown order { judged with link := { s.link with
          tryCount := min 5 (s.link.tryCount + 1)
          lastFailure := if 4 ≤ s.link.tryCount then .wakeFailed else .lost } }).raiseAll .link) ∧
      (s.link.state = .aligning → ∃ t, place = .next t ∧ t.link = s.link ∧ t.framer.framed = false ∧
        t.framer.pendingCheck = none ∧ t.framer.hunt = 0 ∧
        t.framer.line = (if s.framer.role = .follow then .quiet else s.framer.line) ∧
        t = { s with framer := t.framer, plan := opened })) ∧
    (∀ n, s.link.state = .resync → s.link.resyncCount = some n →
      (good ∧ f = 0 ∧ s.framer.goodRun = 2 → ∃ t, place = .next t ∧
        t.framer.badRun = 0 ∧ t.framer.dueFrame = 1 ∧ t.framer.lastHanded = some payload ∧
        t.link = (if (s.link.claims.p1 || s.link.claims.p2 || s.link.claims.p3) = false ∧
            s.link.peerDemand = false then
          { s.link with state := .leaving, resyncCount := none, leavingCount := some 0, readyWait := none }
        else { s.link with state := .up, resyncCount := none }) ∧
        let read : State := { judged with
          framer := { judged.framer with
            inCheck := checkFrame 0 payload service 0xFFFF#16
            receiving := ⟨(Vector.replicate 12 0#8).set 0 service, s.plan.active⟩
            lastHanded := some payload }
          link := t.link
          exchange := if t.link.state = .leaving then { s.exchange with mismatchRun := 0 } else s.exchange }
        let moved : State := if t.link.state = .up ∧ s.exchange.mismatch = false then
          (channelOrder order).foldl (deliverChannel payload) read else read
        t = { moved with framer := { moved.framer with dueFrame := 1 } }) ∧
      (¬(good ∧ f = 0 ∧ s.framer.goodRun = 2) → n < 39 → ∃ t, place = .next t ∧
        t.link = { s.link with resyncCount := some (n + 1) } ∧ t.framer.dueFrame = f + 1 ∧
        t = { s with framer := t.framer, link := t.link,
                     plan := opened }) ∧
      (¬(good ∧ f = 0 ∧ s.framer.goodRun = 2) → 39 ≤ n → ∃ t, place = .next t ∧
        t.link.lastFailure = .lost ∧ t.link.tryCount = s.link.tryCount ∧ t.framer.framed = false ∧
        (∀ p, (t.port p).holds .link = true) ∧
        t = (enterDown order { judged with
          link := { s.link with lastFailure := .lost } }).raiseAll .link))

/-- The decision on a received cycle (R12 to R16, R18, R19, R33 to R36, R42, R53, R95): with no check pending
none is made; a check that differs, unless check-blind is set, rejects the cycle; an accepted one stores the
flags, counts FAR_ERROR, but not under bad-checks, passes BANK to the exchange in UP, where it is compared
before the link moves and before the positions, moves the link as READY, LEAVING and the demands have it, and
hands position A and then position B to the service channel. SYNCED stops the align timer and starts the READY wait;
UP makes the try count 0, stops the READY wait and raises LINK on all ports; LEAVING starts its count, with the
READY wait absent, the model's choice (log entry 20). A CLOCK flag at the Clock end is a role clash: the entry
into DOWN with the try count 5 and LINK to all ports. The order inside an acceptance is the
model's (log entry 11). A position's four bytes are read as R178 has them: target and kind in the first, then
the code and the argument, low-order byte first. -/
def Obligations.DecisionAcceptsOrRejects : Prop :=
  (∀ b0 b1 b2 b3 : Byte,
    let m := messageOf b0 b1 b2 b3
    m.target.toNat = b0.toNat / 16 ∧ m.kind = (if b0.toNat % 2 = 1 then .value else .order) ∧
    m.code = b1 ∧ m.argument.toNat = b2.toNat + 256 * b3.toNat) ∧
  ∀ (order : ChannelOrder) (s : State),
    let carries : Prop := s.link.state = .synced ∨ s.link.state = .up ∨ s.link.state = .leaving
    let up (n : Byte) : Byte := if n.toNat < 255 then n + 1#8 else 255#8
    (s.framer.pendingCheck = none → decideCycle order s = s) ∧
    ∀ p, s.framer.pendingCheck = some p → s.framer.framed = true →
      let sent := wordOf s.framer.receiving.service[10] s.framer.receiving.service[11]
      let broken : State := { s with service := { s.service with look := none } }
      (p.check ≠ sent → s.framer.checkBlind = false →
        (¬carries → decideCycle order s = broken) ∧
        (carries → decideCycle order s = { broken with framer := { s.framer with
          nearEnd := up s.framer.nearEnd, farErrorToSend := true } })) ∧
      (p.check = sent ∨ s.framer.checkBlind = true →
        let t := decideCycle order s
        let flags := p.cycle.service[4] &&& 0x7F#8
        let v := p.cycle.service[5]
        let demanded : Bool := s.link.claims.p1 || s.link.claims.p2 || s.link.claims.p3
        let aligned : LinkState := if s.link.state = .aligning then .synced else s.link.state
        let ready : LinkState := if aligned = .synced ∧ flagSet flags .ready = true then .up else aligned
        let wanted : Prop := flagSet flags .leaving = false ∧
          (demanded = true ∨ flagSet flags .demand = true)
        let bank : Bank := if flagSet flags .bank = true then .b1 else .b0
        let told : Link := { s.link with
          peerDemand := flagSet flags .demand, peerReady := flagSet flags .ready }
        let synced : Link := if s.link.state = .aligning then
          { told with state := .synced, alignTimer := false, readyWait := some 0 } else told
        let rises : Prop := aligned = .synced ∧ flagSet flags .ready = true
        let raised : Link := if aligned = .synced ∧ flagSet flags .ready = true then
          { synced with state := .up, tryCount := 0, readyWait := none } else synced
        (s.framer.role = .clock → flagSet flags .clockRole = true →
          t.link.lastFailure = .roleClash ∧ t.link.tryCount = 5 ∧ t.framer.framed = false ∧
          (∀ q, (t.port q).holds .link = true) ∧
          let heard := if s.link.state = .up then compareBank s bank p.cycle.reference else s
          t = (enterDown order { heard with link := { s.link with
            tryCount := 5, lastFailure := .roleClash } }).raiseAll .link) ∧
        (¬(s.framer.role = .clock ∧ flagSet flags .clockRole = true) →
          t.framer.peerFlags = flags ∧ t.framer.nearEnd = s.framer.nearEnd ∧
          t.framer.farErrorToSend = s.framer.farErrorToSend ∧
          ((carries ∧ flagSet flags .farError = true ∧ s.framer.badChecks = false) →
            t.framer.farEnd = up s.framer.farEnd) ∧
          (¬carries ∨ flagSet flags .farError = false → t.framer.farEnd = s.framer.farEnd) ∧
          (carries → flagSet flags .farError = true → s.framer.badChecks = true →
            t.framer.farEnd = s.framer.farEnd) ∧
          ((ready = .synced ∨ ready = .up) → wanted → t.link = raised) ∧
          ((ready = .synced ∨ ready = .up) → ¬wanted → t.link = { raised with
            state := .leaving, leavingCount := some 0, readyWait := none }) ∧
          (ready ≠ .synced → ready ≠ .up → t.link = told) ∧
          (rises → ∀ q, (t.port q).holds .link = true) ∧
          t.link.peerDemand = flagSet flags .demand ∧ t.link.peerReady = flagSet flags .ready ∧
          ((ready = .synced ∨ ready = .up) → wanted → t.link.state = ready) ∧
          ((ready = .synced ∨ ready = .up) → ¬wanted → t.link.state = .leaving) ∧
          (ready ≠ .synced → ready ≠ .up → t.link.state = ready) ∧
          (s.framer.role = .clock → t.framer.cycle = s.framer.cycle) ∧
          (s.framer.role = .follow → s.link.state = .aligning → t.framer.cycle = v + 1#8) ∧
          (s.framer.role = .follow → carries → v = p.localCycle →
            t.framer.cycle = s.framer.cycle ∧ t.framer.disagreeRun = 0) ∧
          (s.framer.role = .follow → carries → v ≠ p.localCycle → s.framer.disagreeRun = 0 →
            t.framer.cycle = s.framer.cycle ∧ t.framer.disagreeRun = 1) ∧
          (s.framer.role = .follow → carries → v ≠ p.localCycle → s.framer.disagreeRun ≠ 0 →
            t.framer.cycle = v + 1#8 ∧ t.framer.disagreeRun = 0) ∧
          (∃ u : State,
            let position (n : Fin 9) : Message := messageOf p.cycle.service[n.val] p.cycle.service[n.val + 1]
              p.cycle.service[n.val + 2] p.cycle.service[n.val + 3]
            t = positionReceived (positionReceived u .a v (position 0)) .b v (position 6) ∧
            let compared : State := if s.link.state = .up then
              compareBank { s with framer := { s.framer with cycle := t.framer.cycle } } bank
                p.cycle.reference
            else s
            u.exchange = (if (ready = .synced ∨ ready = .up) ∧ ¬wanted then
              { compared.exchange with mismatchRun := 0 } else compared.exchange) ∧
            u.service = { s.service with origin := compared.service.origin } ∧ u.plan = compared.plan ∧
            u.link = t.link ∧
            u.framer = { s.framer with
              peerFlags := flags, farEnd := t.framer.farEnd, cycle := t.framer.cycle
              disagreeRun := t.framer.disagreeRun } ∧
            (∀ q, u.port q =
              if aligned = .synced ∧ flagSet flags .ready = true then (compared.port q).raise .link
              else compared.port q) ∧
            u = { s with framer := u.framer, link := u.link, service := u.service, plan := u.plan
                         exchange := u.exchange, ports := u.ports }) ∧
          (s.link.state = .up → wanted → s.service.look = none →
            s.framer.role = .clock ∨ v = p.localCycle →
            t.exchange = (compareBank s bank p.cycle.reference).exchange) ∧
          (s.link.state ≠ .up → ready = .up → wanted → s.service.look = none → t.exchange = s.exchange)))

/-! ## Units -/

/-- The unit of an OUT channel at a frame start (R128, R129, R131, R181): with every condition met, its count
n is the least of 4k − 1, the fill level and the remaining count; n bytes leave the ring in order, the header
first; END is set as the order ends DONE. With a condition not met the channel forms no unit. The loop pause
flag follows the loop set, with LOOPED at each change. -/
def Obligations.UnitFormed : Prop :=
  (∀ (c : ChannelNo) (n : AreaNo) (o : Order) (rest : List Order) (s : State), RingsInRange s →
    let out := s.plan.activeTables.out
    let x := s.channel c
    let a := s.area n
    let size := 64 * a.count.getD 0
    let place (j : Nat) : Nat :=
      64 * (a.first.getD 0 + (a.readPos + j) % size / 64) + (a.readPos + j) % size % 64
    let remaining := o.count - o.moved
    let k := min (4 * slotCount out c - 1) (min a.fill remaining)
    let taken : State := (s.setArea n { a with readPos := (a.readPos + k) % size, fill := a.fill - k }).setChannel
      c { x with queue := { o with moved := o.moved + k } :: rest }
    let ends : Prop := 0 < k ∧ remaining = k
    x.area = some n → x.queue = o :: rest → x.direction = some .out → x.state = .active →
    (s.link.state = .up → s.exchange.mismatch = false → 0 < slotCount out c →
      (∀ i : SlotNo, out[i.val] = some c → s.service.loopSet[i.val] = false) →
      (formUnit s c).1 = byteOf (if 0 < k ∧ remaining = k then k + 128 else k) ::
        (List.range k).map (fun j => Memory.read s.pool (place j)) ∧
      (¬ends → (formUnit s c).2 = taken) ∧ (ends → (formUnit s c).2 = endAndAdvance taken c .done))) ∧
  (∀ (c : ChannelNo) (s : State),
    s.link.state ≠ .up ∨ s.exchange.mismatch = true ∨ slotCount s.plan.activeTables.out c = 0 ∨
      (∃ i : SlotNo, s.plan.activeTables.out[i.val] = some c ∧ s.service.loopSet[i.val] = true) ∨
      (s.channel c).direction ≠ some .out ∨ (s.channel c).state ≠ .active →
    formUnit s c = ([], s)) ∧
  (∀ (c : ChannelNo) (p : Port) (s : State),
    let looped : Prop :=
      ∃ i : SlotNo, s.plan.activeTables.out[i.val] = some c ∧ s.service.loopSet[i.val] = true
    (s.channel c).direction = some .out → (s.channel c).owner = some p →
    (looped → (s.channel c).loopPause = false → updateLoopPause s c =
      (s.setChannel c { s.channel c with loopPause := true }).raise p .looped) ∧
    (¬looped → (s.channel c).loopPause = true → updateLoopPause s c =
      (s.setChannel c { s.channel c with loopPause := false }).raise p .looped) ∧
    ((looped ↔ (s.channel c).loopPause = true) → updateLoopPause s c = s))

/-- The delivery of an inbound unit (R133 to R137, R139): a count above the data the slots hold is a bad unit;
data for a channel without an ACTIVE order is unclaimed; else the data fill the current order, and an order
ends DONE when filled, SHORT at the END mark, OVERRUN when its area is full; what is left goes on as a unit of
the bytes left, with the same END mark, to the state after the order's end. Data go into the ring in order
(R112). The unit of an IN channel is the bytes of its slots in the receive bank's inbound table, in rising slot
order (R69, R74); from a swap to the next received frame-0 place that table is the one retained (R93, R140; log
entry 30). -/
def Obligations.DeliveryServesOrders : Prop :=
  (∀ (c : ChannelNo) (p : Port) (header : Byte) (data : List Byte) (s : State),
    let x := s.channel c
    let count := (header &&& 0x7F#8).toNat
    x.owner = some p →
    (data.length < count → deliverUnit s c (header :: data) = s.raise p .badUnit) ∧
    (count ≤ data.length → x.state ≠ .active →
      deliverUnit s c (header :: data) = if count = 0 then s else s.raise p .unclaimed) ∧
    ∀ n o rest, count ≤ data.length → x.state = .active → x.area = some n → x.queue = o :: rest →
      let free := 64 * (s.area n).count.getD 0 - (s.area n).fill
      let remaining := o.count - o.moved
      let moved (k : Nat) : State :=
        let t := ringAppendAll n (data.take k) s
        t.setChannel c { x with queue := { o with moved := o.moved + k } :: rest }
      (free < min count remaining → deliverUnit s c (header :: data) =
        endAndHalt (moved free) c .overrun .overrun) ∧
      (min count remaining ≤ free → count < remaining → header.msb = false →
        deliverUnit s c (header :: data) = moved count) ∧
      (min count remaining ≤ free → count < remaining → header.msb = true →
        deliverUnit s c (header :: data) = endAndAdvance (moved count) c .short) ∧
      (count ≤ free → count = remaining →
        deliverUnit s c (header :: data) = endAndAdvance (moved count) c .done) ∧
      (remaining ≤ free → remaining < count → rest = [] →
        deliverUnit s c (header :: data) =
          (endAndAdvance (moved remaining) c .done).raise p .unclaimed) ∧
      (remaining ≤ free → remaining < count → deliverUnit s c (header :: data) =
        deliverUnit (endAndAdvance (moved remaining) c .done) c
          (byteOf (count - remaining + if header.msb = true then 128 else 0) :: data.drop remaining))) ∧
  (∀ (payload : Payload) (c : ChannelNo) (s : State),
    let inn : SlotTable := match s.plan.retained with
      | some old => old
      | none => (s.plan.bank s.plan.receive).inn
    ((s.channel c).direction = some .inn → deliverChannel payload s c = deliverUnit s c
      (((List.finRange 24).filter fun i => inn[i.val] = some c).flatMap fun i =>
        (List.finRange 4).map fun j => payload[4 * i.val + j.val])) ∧
    ((s.channel c).direction ≠ some .inn → deliverChannel payload s c = s)) ∧
  (∀ (n : AreaNo) (bytes : List Byte) (s : State), RingsInRange s → PoolCanonical s →
    let a := s.area n
    let size := 64 * a.count.getD 0
    let place (j : Nat) : Nat := 64 * (a.first.getD 0 + (a.writePos + j) % size / 64) +
      (a.writePos + j) % size % 64
    a.fill + bytes.length ≤ size →
    let t := ringAppendAll n bytes s
    t.area n = { a with writePos := (a.writePos + bytes.length) % size, fill := a.fill + bytes.length } ∧
    (∀ j (h : j < bytes.length), Memory.read t.pool (place j) = bytes[j]) ∧
    (∀ x, (∀ j, j < bytes.length → x ≠ place j) → Memory.read t.pool x = Memory.read s.pool x) ∧
    t = { s with pool := t.pool, areas := (s.setArea n (t.area n)).areas })

/-! ## Tones, timers and the entry into DOWN -/

/-- The tone detector's reports and the places of the hunt (R25 to R31): what each does in the states that act
on it, and that it changes nothing in the others (log entries 4, 12, 16 and 21). With no marker counted the
hunt looks at the first byte it finds, and within a run at the place one frame period on. A frame on the line
is its 98 bytes, most significant bit first, and 240 ones; an unframed receiver takes a zero after at least 64
ones as the first bit of a byte (R182, R183). -/
def Obligations.TonesAndHunt : Prop :=
  (∀ (marker service : Byte) (payload : Payload),
    let carried (b : Byte) : List Bool := [b.getLsbD 7, b.getLsbD 6, b.getLsbD 5, b.getLsbD 4, b.getLsbD 3,
      b.getLsbD 2, b.getLsbD 1, b.getLsbD 0]
    (frameBits marker payload service).length = 1024 ∧
    frameBits marker payload service =
      carried marker ++ payload.toList.flatMap carried ++ carried service ++ List.replicate 240 true) ∧
  (∀ (ones : Nat) (b : Byte) (rest : List Bool),
    let carried : List Bool := [b.getLsbD 7, b.getLsbD 6, b.getLsbD 5, b.getLsbD 4, b.getLsbD 3,
      b.getLsbD 2, b.getLsbD 1, b.getLsbD 0]
    (64 ≤ ones → b.msb = false →
      findByte (List.replicate ones true ++ carried ++ rest) = some b) ∧
    (ones < 64 → findByte (List.replicate ones true ++ false :: rest) = findByte rest) ∧
    (rest.length < 7 → findByte (List.replicate ones true ++ false :: rest) = none) ∧
    findByte (List.replicate ones true) = none ∧
    ∀ (n : Nat) (bits : List Bool), byteAt n bits = some b ↔ b.msb = false ∧ ∃ before after,
      bits = before ++ List.replicate 64 true ++ carried ++ after ∧ before.length + 64 = n) ∧
  ∀ (bits : List Bool) (s : State),
    let found : Option Byte := if s.framer.hunt = 0 then findByte bits else byteAt 1016 bits
    let looked : Prop :=
      if s.framer.hunt = 0 then findByte bits ≠ none else 1024 ≤ bits.length
    let demanded : Prop := s.link.claims.p1 = true ∨ s.link.claims.p2 = true ∨ s.link.claims.p3 = true
    let heard : State := { s with link := { s.link with wakeHeard := true } }
    let gone : State := { s with link := { s.link with wakeHeard := false } }
    let answering : State := { s with
      link := { s.link with wakeHeard := true, state := .answering, toneTimer := some .answer }
      framer := { s.framer with line := .answerTone } }
    let hunting (n : Nat) : State := { s with framer := { s.framer with hunt := n } }
    let framed : Framer := { s.framer with framed := true, dueFrame := 0, badRun := 0, goodRun := 0, hunt := 0 }
    exec .wakeHeard s = .next (match s.link.state with
      | .down => if s.link.wakeHeard = true then s
          else if s.settings.autoAnswer = true ∨ demanded then answering else heard.raiseAll .wakeSeen
      | .waking => answering
      | .answering => heard
      | _ => s) ∧
    exec .wakeGone s = .next (if s.link.wakeHeard = false then s
      else if s.link.state = .down ∧ demanded ∧ s.link.quietGuard = false ∧ s.link.tryTimer = false ∧
          s.link.tryCount < 5 then
        { gone with
          link := { gone.link with state := .waking, toneTimer := some .wake, tryTimer := true }
          framer := { s.framer with line := .wakeTone } }
      else gone) ∧
    exec .answerHeard s = .next (if s.link.state = .waking then { s with
        link := { s.link with
          state := .aligning, toneTimer := none, alignTimer := true, wakeHeard := false }
        framer := { s.framer with line := .quiet, framed := false, hunt := 0, badRun := 0, goodRun := 0
                                  firstCycle := false } }
      else s) ∧
    exec .answerGone s = .next s ∧
    (s.link.state ≠ .aligning ∨ s.framer.framed = true → exec (.huntMarker bits) s = .next s) ∧
    (s.link.state = .aligning → s.framer.framed = false → s.framer.role = .clock →
      exec (.huntMarker bits) s =
        .next (if findByte bits = some 0x2D#8 then { s with framer := framed } else s)) ∧
    (s.link.state = .aligning → s.framer.framed = false → s.framer.role = .follow →
      (¬looked → exec (.huntMarker bits) s = .next s) ∧
      (looked → found = some 0x1B#8 → s.framer.hunt < 11 →
        exec (.huntMarker bits) s = .next (hunting (s.framer.hunt + 1))) ∧
      (looked → found = some 0x1B#8 → s.framer.hunt = 11 →
        exec (.huntMarker bits) s = .next (hunting 1)) ∧
      (looked → found ≠ some 0x1B#8 → found ≠ some 0x2D#8 ∨ s.framer.hunt < 4 →
        exec (.huntMarker bits) s = .next (hunting 0)) ∧
      (looked → found = some 0x2D#8 → 4 ≤ s.framer.hunt → ∃ t, exec (.huntMarker bits) s = .next t ∧
        t.framer.framed = true ∧ t.framer.dueFrame = 0 ∧ t.framer.outFrame = 0 ∧ t.framer.hunt = 0 ∧
        t.framer.firstCycle = true ∧ t.framer.cycle = s.framer.cycle ∧ t.link.state = .aligning ∧
        ∃ payload service, t.framer.line = .frame 0x2D#8 payload service))

/-- The timers of the link controller, and the limit of RESYNC (R26, R27, R29, R32, R39, R40, R41): an expiry of
a timer that runs acts as its state has it, and any other changes nothing. A failed try raises the try count,
names its reason, WAKE_FAILED when the count then stands at 5 (log entry 13), and enters DOWN, as the statement
of that entry has it, with LINK to all ports, but not for a silent try before the fifth. That an expiry
without its timer changes nothing is log entry 4; what the entry into ALIGNING clears beyond the rules' words
is log entries 12 and 16. -/
def Obligations.TimersMoveLink : Prop :=
  ∀ (order : ChannelOrder) (s : State),
    let demanded : Prop := s.link.claims.p1 = true ∨ s.link.claims.p2 = true ∨ s.link.claims.p3 = true
    let tried (l : Link) : State :=
      if l.state = .down ∧ demanded ∧ l.quietGuard = false ∧ l.tryTimer = false ∧ l.tryCount < 5 ∧
          l.wakeHeard = false then
        { s with
          link := { l with state := .waking, toneTimer := some .wake, tryTimer := true }
          framer := { s.framer with line := .wakeTone } }
      else { s with link := l }
    let aligning : State := { s with
      link := { s.link with state := .aligning, toneTimer := none, alignTimer := true, wakeHeard := false }
      framer := { s.framer with
        line := .quiet, framed := false, hunt := 0, badRun := 0, goodRun := 0, firstCycle := false } }
    let fallen (i : Instr) (count : Nat) (reason : FailureReason) (tell : Bool) : Prop :=
      let fell := enterDown order { s with link := { s.link with tryCount := count, lastFailure := reason } }
      ∃ t, exec i s = .next t ∧ t = (if tell then fell.raiseAll .link else fell) ∧
        t.link.state = (if s.link.wakeHeard = true ∧ (s.settings.autoAnswer = true ∨ demanded) then
          .answering else .down) ∧
        t.link.tryCount = count ∧ t.link.lastFailure = reason ∧ t.link.quietGuard = true ∧
        t.link.claims = s.link.claims ∧ t.link.tryTimer = s.link.tryTimer ∧
        (tell = true → ∀ p, (t.port p).holds .link = true) ∧
        (tell = false → ∀ p, (t.port p).holds .link = (s.port p).holds .link)
    let count := min 5 (s.link.tryCount + 1)
    let failed (own : FailureReason) : FailureReason := if 4 ≤ s.link.tryCount then .wakeFailed else own
    exec .quietGuardExpiry s =
      .next (if s.link.quietGuard = true then tried { s.link with quietGuard := false } else s) ∧
    exec .tryTimerExpiry s =
      .next (if s.link.tryTimer = true then tried { s.link with tryTimer := false } else s) ∧
    exec .answerToneTimerExpiry s = .next (
      if s.link.state = .answering ∧ s.link.toneTimer = some .answer then aligning else s) ∧
    (s.link.state = .waking → s.link.toneTimer = some .wake →
      fallen (.wakeToneTimerExpiry order) count (failed s.link.lastFailure)
        (decide (4 ≤ s.link.tryCount))) ∧
    (s.link.state ≠ .waking ∨ s.link.toneTimer ≠ some .wake →
      exec (.wakeToneTimerExpiry order) s = .next s) ∧
    (s.link.state = .aligning → s.link.alignTimer = true →
      fallen (.alignTimerExpiry order) count (failed .alignFailed) true) ∧
    (s.link.state ≠ .aligning ∨ s.link.alignTimer = false →
      exec (.alignTimerExpiry order) s = .next s) ∧
    (∀ n, s.link.state = .resync → s.link.resyncCount = some n → 39 ≤ n →
      fallen (.resyncLimit order) s.link.tryCount .lost true) ∧
    (s.link.state ≠ .resync ∨ (∀ n, s.link.resyncCount = some n → n < 39) →
      exec (.resyncLimit order) s = .next s)

/-- What the entry into DOWN clears in each block (R20, R40, R66, R69, R99, R131, R141; that the good markers
counted are among it is log entry 16, and the table retained by a swap log entry 30): the framer and the link,
the service channel but for its reports, the exchange, the receive bank, and the channels, whose current orders
end LINK_LOST, with their records in the order in which the step takes the channels, and which halt. A WAKE
being heard is then answered, or WAKE_SEEN is raised to all ports (R28). -/
def Obligations.DownEntryClears : Prop :=
  ∀ (order : ChannelOrder) (s : State),
    let t := announceDown order s
    t.framer = { s.framer with
      line := .quiet, cycleOpen := t.framer.cycleOpen, outCheck := none, lastCheck := 0xFFFF#16
      framed := false, badRun := 0, goodRun := 0, firstCycle := false, hunt := 0, pendingCheck := none
      disagreeRun := 0, peerFlags := 0#8, farErrorToSend := false, badChecks := false
      checkBlind := false, nearEnd := 0#8, farEnd := 0#8, lastHanded := none } ∧
    t.link = { s.link with
      state := .down, quietGuard := true, toneTimer := none, alignTimer := false, readyWait := none
      resyncCount := none, leavingCount := none, peerDemand := false, peerReady := false } ∧
    t.service = { s.service with
      slot := ⟨0#4, .order, 0#8, 0#16⟩, hold := 0, answer := none, origin := [], await := []
      look := none, lastConfirmed := none, previous := none
      loopSet := Vector.replicate 24 false, badStart := none } ∧
    t.exchange.state = .idle ∧ t.exchange.mismatch = false ∧ t.exchange.adopt = none ∧
    t.exchange.mismatchRun = 0 ∧
    (s.exchange.state ≠ .idle →
      t.exchange.last = some ⟨.linkLost, none, s.exchange.requester, s.framer.cycle⟩ ∧
      ∀ p, (t.port p).holds .plan = true) ∧
    (s.exchange.state = .idle → t.exchange.last = s.exchange.last) ∧
    t.plan.active = s.plan.active ∧ t.plan.activeTables = s.plan.activeTables ∧
    t.plan.receive = s.plan.active ∧ t.plan.retained = none ∧
    (∀ c, (s.channel c).state = .waiting ∨ (s.channel c).state = .active →
      t.channel c = { s.channel c with
        state := .halted, halt := some .linkLost, queue := (s.channel c).queue.tail, loopPause := false }) ∧
    (∀ c, (s.channel c).state ≠ .waiting → (s.channel c).state ≠ .active →
      t.channel c = { s.channel c with loopPause := false }) ∧
    (∀ k, (t.cell k).value = (s.cell k).value) ∧ t.areas = s.areas ∧ t.pool = s.pool ∧
    t.settings = s.settings ∧
    (∀ k, (t.cell k).waiters = (s.cell k).waiters.filter fun c => !((s.channel c).state == .waiting &&
      (s.channel c).queue.head?.bind Order.gate == some k)) ∧
    (∀ p : Port,
      let current (c : ChannelNo) : Bool := (s.channel c).owner == some p &&
        ((s.channel c).state == .waiting || (s.channel c).state == .active)
      let ended := (channelOrder order).filterMap fun c =>
        if current c then (s.channel c).queue.head?.map fun o =>
          (⟨c, o.tag, .linkLost, o.moved, s.framer.cycle⟩ : CompletionRecord)
        else none
      t.port p = { s.port p with
        completions := (s.port p).completions ++ ended
        orderCount := (s.port p).orderCount - ended.length
        events := (t.port p).events } ∧
      ∀ e, (t.port p).holds e = ((s.port p).holds e || match e with
        | .completion => !ended.isEmpty
        | .halted => (List.finRange 8).any current
        | .looped => (List.finRange 8).any fun c =>
          (s.channel c).owner == some p && (s.channel c).loopPause
        | .plan => s.exchange.state != .idle
        | _ => false)) ∧
    enterDown order s =
      if s.link.wakeHeard = true then
        if s.settings.autoAnswer = true ∨ s.link.claims.p1 = true ∨ s.link.claims.p2 = true ∨
            s.link.claims.p3 = true then
          { t with
            link := { t.link with state := .answering, toneTimer := some .answer }
            framer := { t.framer with line := .answerTone } }
        else t.raiseAll .wakeSeen
      else t

/-! ## Service messages -/

/-- The transmit slot at a position boundary (R46, R47, R52, R61, R87): a message stays for three positions;
then an answer goes before an origin message; a message of the origin queue that asks for an echo joins the
await list; the entry of an AGREE fixes the target, and that of the bad-checks echo begins the start, also while
bad-checks is set already, the model's reading (log entry 24). -/
def Obligations.TransmitSlotChoice : Prop :=
  ∀ s : State,
    let v := s.service
    let stays := { s with service := { v with hold := v.hold + 1 } }
    let slot (m : Message) : Service := { v with slot := m, hold := 1, answer := none }
    let fixed : Option Byte :=
      if s.exchange.state = .scheduled ∧ s.exchange.side = some .agreer ∧ s.exchange.target = none then
        some (s.framer.cycle + 16#8)
      else s.exchange.target
    (v.hold < 3 → positionBoundary s = stays) ∧
    (3 ≤ v.hold → v.answer = none → v.origin = [] → positionBoundary s = stays) ∧
    (∀ a, 3 ≤ v.hold → v.answer = some a →
      (a.source = .other → positionBoundary s = { s with service := slot a.message }) ∧
      (a.source = .badChecksEcho → positionBoundary s = { s with service := { slot a.message with
        badStart := match v.badStart with | some n => some n | none => some 0 } }) ∧
      (a.source = .plan → a.message.code ≠ 0x11#8 →
        positionBoundary s = { s with service := slot a.message }) ∧
      (a.source = .plan → a.message.code = 0x11#8 →
        positionBoundary s = { s with
          service := slot { a.message with argument := (s.framer.cycle + 16#8).setWidth 16 }
          exchange := { s.exchange with target := fixed } })) ∧
    (∀ e rest, 3 ≤ v.hold → v.answer = none → v.origin = e :: rest →
      let m := e.message
      let awaited : Prop := (m.target = 0#4 ∨ m.target = 15#4) ∧
        (m.kind = .value ∨ m.code ∉ [0x00#8, 0x06#8, 0x10#8, 0x11#8, 0x12#8, 0x13#8])
      (awaited → positionBoundary s = { s with service := { v with
        slot := m, hold := 1, origin := rest
        await := (if 4 ≤ v.await.length then v.await.tail else v.await) ++ [m] } }) ∧
      (¬awaited → positionBoundary s = { s with service := { v with
        slot := m, hold := 1, origin := rest } }))

/-- An accepted position (R53 to R58, R60 to R64): the look run goes on; three positions alike confirm a
message that is not the last confirmed; a confirmed message is disposed of by its kind, code and target and by
the mode, and reported: with its disposition, but in RELAY under the filter CHANGE as seen, where it differs
from the position before, and else not. In RELAY a message is held, and a DECLINE settles the message it
declines, whatever its target, while in AUTO a foreign one settles none (log entry 28). An answer of the AUTO
mode displaces an unsent one (R48), and an AGREE displaced so ends its schedule WITHDRAWN (R88). -/
def Obligations.ServiceConfirms : Prop :=
  ∀ (s : State) (place : Position) (cycle : Byte) (m : Message),
    let t := positionReceived s place cycle m
    let alike (n : Nat) : Prop := ∃ r, s.service.look = some r ∧ r.candidate = m ∧ r.length = n
    let run : LookRun := match s.service.look with
      | some r => if r.candidate = m then ⟨m, min 3 (r.length + 1)⟩ else ⟨m, 1⟩
      | none => ⟨m, 1⟩
    let u : State := { s with service := { s.service with
      previous := some m, look := some run, lastConfirmed := some m } }
    let reported (d : Disposition) (x : State) : State :=
      let kept : Service := if x.service.reports.length < 8 then
        { x.service with reports := x.service.reports ++ [⟨m, cycle, place, d⟩] }
        else { x.service with overflow := true }
      ({ x with service := kept } : State).raise x.settings.servicePort .service
    let answered (x : State) (a : Message) (source : AnswerSource) : State :=
      let y : State := { x with service := { x.service with answer := some ⟨a, source⟩ } }
      match s.service.answer with
      | some old =>
        if old.source = .plan ∧ old.message.code = 0x11#8 ∧ s.exchange.state = .scheduled ∧
            s.exchange.side = some .agreer ∧ s.exchange.target = none then
          endExchange y .withdrawn none false
        else y
      | none => y
    let confirmed : Prop := alike 2 ∧ s.service.lastConfirmed ≠ some m
    let plan : Prop := m.kind = .order ∧ m.code ∈ [0x10#8, 0x11#8, 0x12#8, 0x13#8]
    let ours : Prop := m.target = 0#4 ∨ m.target = 15#4
    let seen : Prop := s.settings.mode = .relay ∧
      (s.settings.filter = .every ∨ (s.settings.filter = .change ∧ s.service.previous ≠ some m))
    let told (d : Disposition) (x : State) : State :=
      if s.settings.mode = .auto ∨ s.settings.filter ≠ .change then reported d x
      else if seen then reported .seen x else x
    (¬confirmed →
      let w : State := { s with service := { s.service with previous := some m, look := some run } }
      (seen → t = reported .seen w) ∧ (¬seen → t = w)) ∧
    (confirmed →
      (plan → t = told .plan (planReceived u m)) ∧
      (¬plan → m ∈ s.service.await →
        t = told .echo { u with service := { u.service with await := s.service.await.erase m } }) ∧
      (¬plan → m ∉ s.service.await → s.settings.mode = .relay →
        m.kind = .value ∨ m.code ≠ 0x06#8 → t = told .held u) ∧
      (¬plan → m ∉ s.service.await → s.settings.mode = .relay → m.kind = .order → m.code = 0x06#8 →
        t = told .held { u with service := { u.service with
          await := s.service.await.eraseP fun e =>
            m.argument = e.code.setWidth 16 + (if e.kind = .value then 256#16 else 0#16) } }) ∧
      (¬plan → m ∉ s.service.await → s.settings.mode = .auto →
        (¬ours → t = reported .foreign (answered u ⟨m.target, .order, 0#8, 0#16⟩ .other)) ∧
        (ours → m.kind = .value → ∀ k : CellNo, m.code.toNat = k.val →
          s.settings.peerWritable.getLsbD k.val = true →
          t = reported .executed (answered (peerWrite u k m.argument) m .other)) ∧
        (ours → m.kind = .value → (∀ k : CellNo, m.code.toNat = k.val →
            s.settings.peerWritable.getLsbD k.val = false) →
          t = reported .declined (answered u ⟨m.target, .order, 0x06#8,
            m.code.setWidth 16 + 256#16⟩ .other)) ∧
        (ours → m.kind = .order →
          (m.code = 0x00#8 → t = reported .noted u) ∧
          (m.code = 0x06#8 → t = reported .noted { u with service := { u.service with
            await := s.service.await.eraseP fun e =>
              m.argument = e.code.setWidth 16 + (if e.kind = .value then 256#16 else 0#16) } }) ∧
          (m.code = 0x01#8 → m.argument = 0#16 → t = reported .executed (answered
            { u with service := { u.service with loopSet := Vector.replicate 24 true } } m .other)) ∧
          (∀ i : SlotNo, m.code = 0x02#8 → m.argument.toNat = i.val → t = reported .executed (answered
            { u with service := { u.service with loopSet := s.service.loopSet.set i.val true } } m .other)) ∧
          (m.code = 0x03#8 → m.argument = 0#16 → t = reported .executed (answered u m .badChecksEcho)) ∧
          (m.code = 0x04#8 → m.argument = 0#16 → t = reported .executed (answered
            { u with framer := { u.framer with checkBlind := true } } m .other)) ∧
          (m.code = 0x05#8 → m.argument = 0#16 → t = reported .executed (answered
            { u with
              service := { u.service with loopSet := Vector.replicate 24 false, badStart := none }
              framer := { u.framer with badChecks := false, checkBlind := false } } m .other)) ∧
          ((m.code = 0x02#8 ∧ 23 < m.argument.toNat) ∨
              (m.code ∈ [0x01#8, 0x03#8, 0x04#8, 0x05#8] ∧ m.argument ≠ 0#16) ∨
              (0x06 < m.code.toNat ∧ m.code ∉ [0x10#8, 0x11#8, 0x12#8, 0x13#8]) →
            t = reported .declined (answered u ⟨m.target, .order, 0x06#8, m.code.setWidth 16⟩ .other)))))
end

