-- ==== Sys2Proof/Laws/State.lean ====
section
/-! SUPPORT. What each update of one field leaves: every other field of the state as it was. -/

namespace Sys2Proof.Machine

open Sys2Proof

variable (s : State)


@[simp] theorem State.setPort_framer (p : Port) (q : PortState) : (s.setPort p q).framer = s.framer := rfl
@[simp] theorem State.setPort_link (p : Port) (q : PortState) : (s.setPort p q).link = s.link := rfl
@[simp] theorem State.setPort_service (p : Port) (q : PortState) : (s.setPort p q).service = s.service := rfl
@[simp] theorem State.setPort_settings (p : Port) (q : PortState) : (s.setPort p q).settings = s.settings := rfl
@[simp] theorem State.setPort_plan (p : Port) (q : PortState) : (s.setPort p q).plan = s.plan := rfl
@[simp] theorem State.setPort_exchange (p : Port) (q : PortState) : (s.setPort p q).exchange = s.exchange := rfl
@[simp] theorem State.setPort_pool (p : Port) (q : PortState) : (s.setPort p q).pool = s.pool := rfl
@[simp] theorem State.setPort_areas (p : Port) (q : PortState) : (s.setPort p q).areas = s.areas := rfl
@[simp] theorem State.setPort_channels (p : Port) (q : PortState) : (s.setPort p q).channels = s.channels := rfl
@[simp] theorem State.setPort_cells (p : Port) (q : PortState) : (s.setPort p q).cells = s.cells := rfl
@[simp] theorem State.setPort_lastServed (p : Port) (q : PortState) : (s.setPort p q).lastServed = s.lastServed := rfl
@[simp] theorem State.setPort_freeNext (p : Port) (q : PortState) : (s.setPort p q).freeNext = s.freeNext := rfl
@[simp] theorem State.setPort_pending (p : Port) (q : PortState) : (s.setPort p q).pending = s.pending := rfl

@[simp] theorem State.raise_framer (p : Port) (e : Event) : (s.raise p e).framer = s.framer := rfl
@[simp] theorem State.raise_link (p : Port) (e : Event) : (s.raise p e).link = s.link := rfl
@[simp] theorem State.raise_service (p : Port) (e : Event) : (s.raise p e).service = s.service := rfl
@[simp] theorem State.raise_settings (p : Port) (e : Event) : (s.raise p e).settings = s.settings := rfl
@[simp] theorem State.raise_plan (p : Port) (e : Event) : (s.raise p e).plan = s.plan := rfl
@[simp] theorem State.raise_exchange (p : Port) (e : Event) : (s.raise p e).exchange = s.exchange := rfl
@[simp] theorem State.raise_pool (p : Port) (e : Event) : (s.raise p e).pool = s.pool := rfl
@[simp] theorem State.raise_areas (p : Port) (e : Event) : (s.raise p e).areas = s.areas := rfl
@[simp] theorem State.raise_channels (p : Port) (e : Event) : (s.raise p e).channels = s.channels := rfl
@[simp] theorem State.raise_cells (p : Port) (e : Event) : (s.raise p e).cells = s.cells := rfl
@[simp] theorem State.raise_lastServed (p : Port) (e : Event) : (s.raise p e).lastServed = s.lastServed := rfl
@[simp] theorem State.raise_freeNext (p : Port) (e : Event) : (s.raise p e).freeNext = s.freeNext := rfl
@[simp] theorem State.raise_pending (p : Port) (e : Event) : (s.raise p e).pending = s.pending := rfl

@[simp] theorem State.raiseAll_framer (e : Event) : (s.raiseAll e).framer = s.framer := rfl
@[simp] theorem State.raiseAll_link (e : Event) : (s.raiseAll e).link = s.link := rfl
@[simp] theorem State.raiseAll_service (e : Event) : (s.raiseAll e).service = s.service := rfl
@[simp] theorem State.raiseAll_settings (e : Event) : (s.raiseAll e).settings = s.settings := rfl
@[simp] theorem State.raiseAll_plan (e : Event) : (s.raiseAll e).plan = s.plan := rfl
@[simp] theorem State.raiseAll_exchange (e : Event) : (s.raiseAll e).exchange = s.exchange := rfl
@[simp] theorem State.raiseAll_pool (e : Event) : (s.raiseAll e).pool = s.pool := rfl
@[simp] theorem State.raiseAll_areas (e : Event) : (s.raiseAll e).areas = s.areas := rfl
@[simp] theorem State.raiseAll_channels (e : Event) : (s.raiseAll e).channels = s.channels := rfl
@[simp] theorem State.raiseAll_cells (e : Event) : (s.raiseAll e).cells = s.cells := rfl
@[simp] theorem State.raiseAll_lastServed (e : Event) : (s.raiseAll e).lastServed = s.lastServed := rfl
@[simp] theorem State.raiseAll_freeNext (e : Event) : (s.raiseAll e).freeNext = s.freeNext := rfl
@[simp] theorem State.raiseAll_pending (e : Event) : (s.raiseAll e).pending = s.pending := rfl

@[simp] theorem State.recordChange_framer (k : CellNo) : (s.recordChange k).framer = s.framer := rfl
@[simp] theorem State.recordChange_link (k : CellNo) : (s.recordChange k).link = s.link := rfl
@[simp] theorem State.recordChange_service (k : CellNo) : (s.recordChange k).service = s.service := rfl
@[simp] theorem State.recordChange_settings (k : CellNo) : (s.recordChange k).settings = s.settings := rfl
@[simp] theorem State.recordChange_plan (k : CellNo) : (s.recordChange k).plan = s.plan := rfl
@[simp] theorem State.recordChange_exchange (k : CellNo) : (s.recordChange k).exchange = s.exchange := rfl
@[simp] theorem State.recordChange_pool (k : CellNo) : (s.recordChange k).pool = s.pool := rfl
@[simp] theorem State.recordChange_areas (k : CellNo) : (s.recordChange k).areas = s.areas := rfl
@[simp] theorem State.recordChange_channels (k : CellNo) : (s.recordChange k).channels = s.channels := rfl
@[simp] theorem State.recordChange_cells (k : CellNo) : (s.recordChange k).cells = s.cells := rfl
@[simp] theorem State.recordChange_lastServed (k : CellNo) : (s.recordChange k).lastServed = s.lastServed := rfl
@[simp] theorem State.recordChange_freeNext (k : CellNo) : (s.recordChange k).freeNext = s.freeNext := rfl
@[simp] theorem State.recordChange_pending (k : CellNo) : (s.recordChange k).pending = s.pending := rfl

@[simp] theorem State.shiftOut_framer (p : Port) (b : Byte) : (s.shiftOut p b).framer = s.framer := rfl
@[simp] theorem State.shiftOut_link (p : Port) (b : Byte) : (s.shiftOut p b).link = s.link := rfl
@[simp] theorem State.shiftOut_service (p : Port) (b : Byte) : (s.shiftOut p b).service = s.service := rfl
@[simp] theorem State.shiftOut_settings (p : Port) (b : Byte) : (s.shiftOut p b).settings = s.settings := rfl
@[simp] theorem State.shiftOut_plan (p : Port) (b : Byte) : (s.shiftOut p b).plan = s.plan := rfl
@[simp] theorem State.shiftOut_exchange (p : Port) (b : Byte) : (s.shiftOut p b).exchange = s.exchange := rfl
@[simp] theorem State.shiftOut_pool (p : Port) (b : Byte) : (s.shiftOut p b).pool = s.pool := rfl
@[simp] theorem State.shiftOut_areas (p : Port) (b : Byte) : (s.shiftOut p b).areas = s.areas := rfl
@[simp] theorem State.shiftOut_channels (p : Port) (b : Byte) : (s.shiftOut p b).channels = s.channels := rfl
@[simp] theorem State.shiftOut_cells (p : Port) (b : Byte) : (s.shiftOut p b).cells = s.cells := rfl
@[simp] theorem State.shiftOut_lastServed (p : Port) (b : Byte) : (s.shiftOut p b).lastServed = s.lastServed := rfl
@[simp] theorem State.shiftOut_freeNext (p : Port) (b : Byte) : (s.shiftOut p b).freeNext = s.freeNext := rfl
@[simp] theorem State.shiftOut_pending (p : Port) (b : Byte) : (s.shiftOut p b).pending = s.pending := rfl

@[simp] theorem State.sendByte_framer (p : Port) (b : Byte) : (s.sendByte p b).framer = s.framer := rfl
@[simp] theorem State.sendByte_link (p : Port) (b : Byte) : (s.sendByte p b).link = s.link := rfl
@[simp] theorem State.sendByte_service (p : Port) (b : Byte) : (s.sendByte p b).service = s.service := rfl
@[simp] theorem State.sendByte_settings (p : Port) (b : Byte) : (s.sendByte p b).settings = s.settings := rfl
@[simp] theorem State.sendByte_plan (p : Port) (b : Byte) : (s.sendByte p b).plan = s.plan := rfl
@[simp] theorem State.sendByte_exchange (p : Port) (b : Byte) : (s.sendByte p b).exchange = s.exchange := rfl
@[simp] theorem State.sendByte_pool (p : Port) (b : Byte) : (s.sendByte p b).pool = s.pool := rfl
@[simp] theorem State.sendByte_areas (p : Port) (b : Byte) : (s.sendByte p b).areas = s.areas := rfl
@[simp] theorem State.sendByte_channels (p : Port) (b : Byte) : (s.sendByte p b).channels = s.channels := rfl
@[simp] theorem State.sendByte_cells (p : Port) (b : Byte) : (s.sendByte p b).cells = s.cells := rfl
@[simp] theorem State.sendByte_lastServed (p : Port) (b : Byte) : (s.sendByte p b).lastServed = s.lastServed := rfl
@[simp] theorem State.sendByte_freeNext (p : Port) (b : Byte) : (s.sendByte p b).freeNext = s.freeNext := rfl
@[simp] theorem State.sendByte_pending (p : Port) (b : Byte) : (s.sendByte p b).pending = s.pending := rfl

@[simp] theorem State.clearSent_framer (p : Port) : (s.clearSent p).framer = s.framer := rfl
@[simp] theorem State.clearSent_link (p : Port) : (s.clearSent p).link = s.link := rfl
@[simp] theorem State.clearSent_service (p : Port) : (s.clearSent p).service = s.service := rfl
@[simp] theorem State.clearSent_settings (p : Port) : (s.clearSent p).settings = s.settings := rfl
@[simp] theorem State.clearSent_plan (p : Port) : (s.clearSent p).plan = s.plan := rfl
@[simp] theorem State.clearSent_exchange (p : Port) : (s.clearSent p).exchange = s.exchange := rfl
@[simp] theorem State.clearSent_pool (p : Port) : (s.clearSent p).pool = s.pool := rfl
@[simp] theorem State.clearSent_areas (p : Port) : (s.clearSent p).areas = s.areas := rfl
@[simp] theorem State.clearSent_channels (p : Port) : (s.clearSent p).channels = s.channels := rfl
@[simp] theorem State.clearSent_cells (p : Port) : (s.clearSent p).cells = s.cells := rfl
@[simp] theorem State.clearSent_lastServed (p : Port) : (s.clearSent p).lastServed = s.lastServed := rfl
@[simp] theorem State.clearSent_freeNext (p : Port) : (s.clearSent p).freeNext = s.freeNext := rfl
@[simp] theorem State.clearSent_pending (p : Port) : (s.clearSent p).pending = s.pending := rfl

@[simp] theorem State.setTransaction_framer (p : Port) (x : Transaction) (b : Option Byte) : (s.setTransaction p x b).framer = s.framer := rfl
@[simp] theorem State.setTransaction_link (p : Port) (x : Transaction) (b : Option Byte) : (s.setTransaction p x b).link = s.link := rfl
@[simp] theorem State.setTransaction_service (p : Port) (x : Transaction) (b : Option Byte) : (s.setTransaction p x b).service = s.service := rfl
@[simp] theorem State.setTransaction_settings (p : Port) (x : Transaction) (b : Option Byte) : (s.setTransaction p x b).settings = s.settings := rfl
@[simp] theorem State.setTransaction_plan (p : Port) (x : Transaction) (b : Option Byte) : (s.setTransaction p x b).plan = s.plan := rfl
@[simp] theorem State.setTransaction_exchange (p : Port) (x : Transaction) (b : Option Byte) : (s.setTransaction p x b).exchange = s.exchange := rfl
@[simp] theorem State.setTransaction_pool (p : Port) (x : Transaction) (b : Option Byte) : (s.setTransaction p x b).pool = s.pool := rfl
@[simp] theorem State.setTransaction_areas (p : Port) (x : Transaction) (b : Option Byte) : (s.setTransaction p x b).areas = s.areas := rfl
@[simp] theorem State.setTransaction_channels (p : Port) (x : Transaction) (b : Option Byte) : (s.setTransaction p x b).channels = s.channels := rfl
@[simp] theorem State.setTransaction_cells (p : Port) (x : Transaction) (b : Option Byte) : (s.setTransaction p x b).cells = s.cells := rfl
@[simp] theorem State.setTransaction_lastServed (p : Port) (x : Transaction) (b : Option Byte) : (s.setTransaction p x b).lastServed = s.lastServed := rfl
@[simp] theorem State.setTransaction_freeNext (p : Port) (x : Transaction) (b : Option Byte) : (s.setTransaction p x b).freeNext = s.freeNext := rfl
@[simp] theorem State.setTransaction_pending (p : Port) (x : Transaction) (b : Option Byte) : (s.setTransaction p x b).pending = s.pending := rfl

@[simp] theorem State.beginAccess_framer (p : Port) (header : Byte) : (s.beginAccess p header).framer = s.framer := rfl
@[simp] theorem State.beginAccess_link (p : Port) (header : Byte) : (s.beginAccess p header).link = s.link := rfl
@[simp] theorem State.beginAccess_service (p : Port) (header : Byte) : (s.beginAccess p header).service = s.service := rfl
@[simp] theorem State.beginAccess_settings (p : Port) (header : Byte) : (s.beginAccess p header).settings = s.settings := rfl
@[simp] theorem State.beginAccess_plan (p : Port) (header : Byte) : (s.beginAccess p header).plan = s.plan := rfl
@[simp] theorem State.beginAccess_exchange (p : Port) (header : Byte) : (s.beginAccess p header).exchange = s.exchange := rfl
@[simp] theorem State.beginAccess_pool (p : Port) (header : Byte) : (s.beginAccess p header).pool = s.pool := rfl
@[simp] theorem State.beginAccess_areas (p : Port) (header : Byte) : (s.beginAccess p header).areas = s.areas := rfl
@[simp] theorem State.beginAccess_channels (p : Port) (header : Byte) : (s.beginAccess p header).channels = s.channels := rfl
@[simp] theorem State.beginAccess_cells (p : Port) (header : Byte) : (s.beginAccess p header).cells = s.cells := rfl
@[simp] theorem State.beginAccess_lastServed (p : Port) (header : Byte) : (s.beginAccess p header).lastServed = s.lastServed := rfl
@[simp] theorem State.beginAccess_freeNext (p : Port) (header : Byte) : (s.beginAccess p header).freeNext = s.freeNext := rfl
@[simp] theorem State.beginAccess_pending (p : Port) (header : Byte) : (s.beginAccess p header).pending = s.pending := rfl

@[simp] theorem State.endAccess_framer (p : Port) : (s.endAccess p).framer = s.framer := rfl
@[simp] theorem State.endAccess_link (p : Port) : (s.endAccess p).link = s.link := rfl
@[simp] theorem State.endAccess_service (p : Port) : (s.endAccess p).service = s.service := rfl
@[simp] theorem State.endAccess_settings (p : Port) : (s.endAccess p).settings = s.settings := rfl
@[simp] theorem State.endAccess_plan (p : Port) : (s.endAccess p).plan = s.plan := rfl
@[simp] theorem State.endAccess_exchange (p : Port) : (s.endAccess p).exchange = s.exchange := rfl
@[simp] theorem State.endAccess_pool (p : Port) : (s.endAccess p).pool = s.pool := rfl
@[simp] theorem State.endAccess_areas (p : Port) : (s.endAccess p).areas = s.areas := rfl
@[simp] theorem State.endAccess_channels (p : Port) : (s.endAccess p).channels = s.channels := rfl
@[simp] theorem State.endAccess_cells (p : Port) : (s.endAccess p).cells = s.cells := rfl
@[simp] theorem State.endAccess_lastServed (p : Port) : (s.endAccess p).lastServed = s.lastServed := rfl
@[simp] theorem State.endAccess_freeNext (p : Port) : (s.endAccess p).freeNext = s.freeNext := rfl
@[simp] theorem State.endAccess_pending (p : Port) : (s.endAccess p).pending = s.pending := rfl

@[simp] theorem State.setChannel_framer (c : ChannelNo) (x : Channel) : (s.setChannel c x).framer = s.framer := rfl
@[simp] theorem State.setChannel_link (c : ChannelNo) (x : Channel) : (s.setChannel c x).link = s.link := rfl
@[simp] theorem State.setChannel_service (c : ChannelNo) (x : Channel) : (s.setChannel c x).service = s.service := rfl
@[simp] theorem State.setChannel_settings (c : ChannelNo) (x : Channel) : (s.setChannel c x).settings = s.settings := rfl
@[simp] theorem State.setChannel_plan (c : ChannelNo) (x : Channel) : (s.setChannel c x).plan = s.plan := rfl
@[simp] theorem State.setChannel_exchange (c : ChannelNo) (x : Channel) : (s.setChannel c x).exchange = s.exchange := rfl
@[simp] theorem State.setChannel_pool (c : ChannelNo) (x : Channel) : (s.setChannel c x).pool = s.pool := rfl
@[simp] theorem State.setChannel_areas (c : ChannelNo) (x : Channel) : (s.setChannel c x).areas = s.areas := rfl
@[simp] theorem State.setChannel_cells (c : ChannelNo) (x : Channel) : (s.setChannel c x).cells = s.cells := rfl
@[simp] theorem State.setChannel_ports (c : ChannelNo) (x : Channel) : (s.setChannel c x).ports = s.ports := rfl
@[simp] theorem State.setChannel_lastServed (c : ChannelNo) (x : Channel) : (s.setChannel c x).lastServed = s.lastServed := rfl
@[simp] theorem State.setChannel_freeNext (c : ChannelNo) (x : Channel) : (s.setChannel c x).freeNext = s.freeNext := rfl
@[simp] theorem State.setChannel_pending (c : ChannelNo) (x : Channel) : (s.setChannel c x).pending = s.pending := rfl

@[simp] theorem State.setChannelState_framer (c : ChannelNo) (x : ChannelState) : (s.setChannelState c x).framer = s.framer := rfl
@[simp] theorem State.setChannelState_link (c : ChannelNo) (x : ChannelState) : (s.setChannelState c x).link = s.link := rfl
@[simp] theorem State.setChannelState_service (c : ChannelNo) (x : ChannelState) : (s.setChannelState c x).service = s.service := rfl
@[simp] theorem State.setChannelState_settings (c : ChannelNo) (x : ChannelState) : (s.setChannelState c x).settings = s.settings := rfl
@[simp] theorem State.setChannelState_plan (c : ChannelNo) (x : ChannelState) : (s.setChannelState c x).plan = s.plan := rfl
@[simp] theorem State.setChannelState_exchange (c : ChannelNo) (x : ChannelState) : (s.setChannelState c x).exchange = s.exchange := rfl
@[simp] theorem State.setChannelState_pool (c : ChannelNo) (x : ChannelState) : (s.setChannelState c x).pool = s.pool := rfl
@[simp] theorem State.setChannelState_areas (c : ChannelNo) (x : ChannelState) : (s.setChannelState c x).areas = s.areas := rfl
@[simp] theorem State.setChannelState_cells (c : ChannelNo) (x : ChannelState) : (s.setChannelState c x).cells = s.cells := rfl
@[simp] theorem State.setChannelState_ports (c : ChannelNo) (x : ChannelState) : (s.setChannelState c x).ports = s.ports := rfl
@[simp] theorem State.setChannelState_lastServed (c : ChannelNo) (x : ChannelState) : (s.setChannelState c x).lastServed = s.lastServed := rfl
@[simp] theorem State.setChannelState_freeNext (c : ChannelNo) (x : ChannelState) : (s.setChannelState c x).freeNext = s.freeNext := rfl
@[simp] theorem State.setChannelState_pending (c : ChannelNo) (x : ChannelState) : (s.setChannelState c x).pending = s.pending := rfl

@[simp] theorem State.setArea_framer (n : AreaNo) (x : Area) : (s.setArea n x).framer = s.framer := rfl
@[simp] theorem State.setArea_link (n : AreaNo) (x : Area) : (s.setArea n x).link = s.link := rfl
@[simp] theorem State.setArea_service (n : AreaNo) (x : Area) : (s.setArea n x).service = s.service := rfl
@[simp] theorem State.setArea_settings (n : AreaNo) (x : Area) : (s.setArea n x).settings = s.settings := rfl
@[simp] theorem State.setArea_plan (n : AreaNo) (x : Area) : (s.setArea n x).plan = s.plan := rfl
@[simp] theorem State.setArea_exchange (n : AreaNo) (x : Area) : (s.setArea n x).exchange = s.exchange := rfl
@[simp] theorem State.setArea_pool (n : AreaNo) (x : Area) : (s.setArea n x).pool = s.pool := rfl
@[simp] theorem State.setArea_channels (n : AreaNo) (x : Area) : (s.setArea n x).channels = s.channels := rfl
@[simp] theorem State.setArea_cells (n : AreaNo) (x : Area) : (s.setArea n x).cells = s.cells := rfl
@[simp] theorem State.setArea_ports (n : AreaNo) (x : Area) : (s.setArea n x).ports = s.ports := rfl
@[simp] theorem State.setArea_lastServed (n : AreaNo) (x : Area) : (s.setArea n x).lastServed = s.lastServed := rfl
@[simp] theorem State.setArea_freeNext (n : AreaNo) (x : Area) : (s.setArea n x).freeNext = s.freeNext := rfl
@[simp] theorem State.setArea_pending (n : AreaNo) (x : Area) : (s.setArea n x).pending = s.pending := rfl

@[simp] theorem State.setCell_framer (k : CellNo) (x : Cell) : (s.setCell k x).framer = s.framer := rfl
@[simp] theorem State.setCell_link (k : CellNo) (x : Cell) : (s.setCell k x).link = s.link := rfl
@[simp] theorem State.setCell_service (k : CellNo) (x : Cell) : (s.setCell k x).service = s.service := rfl
@[simp] theorem State.setCell_settings (k : CellNo) (x : Cell) : (s.setCell k x).settings = s.settings := rfl
@[simp] theorem State.setCell_plan (k : CellNo) (x : Cell) : (s.setCell k x).plan = s.plan := rfl
@[simp] theorem State.setCell_exchange (k : CellNo) (x : Cell) : (s.setCell k x).exchange = s.exchange := rfl
@[simp] theorem State.setCell_pool (k : CellNo) (x : Cell) : (s.setCell k x).pool = s.pool := rfl
@[simp] theorem State.setCell_areas (k : CellNo) (x : Cell) : (s.setCell k x).areas = s.areas := rfl
@[simp] theorem State.setCell_channels (k : CellNo) (x : Cell) : (s.setCell k x).channels = s.channels := rfl
@[simp] theorem State.setCell_ports (k : CellNo) (x : Cell) : (s.setCell k x).ports = s.ports := rfl
@[simp] theorem State.setCell_lastServed (k : CellNo) (x : Cell) : (s.setCell k x).lastServed = s.lastServed := rfl
@[simp] theorem State.setCell_freeNext (k : CellNo) (x : Cell) : (s.setCell k x).freeNext = s.freeNext := rfl
@[simp] theorem State.setCell_pending (k : CellNo) (x : Cell) : (s.setCell k x).pending = s.pending := rfl

@[simp] theorem leaveGate_framer (c : ChannelNo) (k : CellNo) : (leaveGate s c k).framer = s.framer := rfl
@[simp] theorem leaveGate_link (c : ChannelNo) (k : CellNo) : (leaveGate s c k).link = s.link := rfl
@[simp] theorem leaveGate_service (c : ChannelNo) (k : CellNo) : (leaveGate s c k).service = s.service := rfl
@[simp] theorem leaveGate_settings (c : ChannelNo) (k : CellNo) : (leaveGate s c k).settings = s.settings := rfl
@[simp] theorem leaveGate_plan (c : ChannelNo) (k : CellNo) : (leaveGate s c k).plan = s.plan := rfl
@[simp] theorem leaveGate_exchange (c : ChannelNo) (k : CellNo) : (leaveGate s c k).exchange = s.exchange := rfl
@[simp] theorem leaveGate_pool (c : ChannelNo) (k : CellNo) : (leaveGate s c k).pool = s.pool := rfl
@[simp] theorem leaveGate_areas (c : ChannelNo) (k : CellNo) : (leaveGate s c k).areas = s.areas := rfl
@[simp] theorem leaveGate_channels (c : ChannelNo) (k : CellNo) : (leaveGate s c k).channels = s.channels := rfl
@[simp] theorem leaveGate_ports (c : ChannelNo) (k : CellNo) : (leaveGate s c k).ports = s.ports := rfl
@[simp] theorem leaveGate_lastServed (c : ChannelNo) (k : CellNo) : (leaveGate s c k).lastServed = s.lastServed := rfl
@[simp] theorem leaveGate_freeNext (c : ChannelNo) (k : CellNo) : (leaveGate s c k).freeNext = s.freeNext := rfl
@[simp] theorem leaveGate_pending (c : ChannelNo) (k : CellNo) : (leaveGate s c k).pending = s.pending := rfl

@[simp] theorem ringRemove_framer (n : AreaNo) : (ringRemove s n).framer = s.framer := rfl
@[simp] theorem ringRemove_link (n : AreaNo) : (ringRemove s n).link = s.link := rfl
@[simp] theorem ringRemove_service (n : AreaNo) : (ringRemove s n).service = s.service := rfl
@[simp] theorem ringRemove_settings (n : AreaNo) : (ringRemove s n).settings = s.settings := rfl
@[simp] theorem ringRemove_plan (n : AreaNo) : (ringRemove s n).plan = s.plan := rfl
@[simp] theorem ringRemove_exchange (n : AreaNo) : (ringRemove s n).exchange = s.exchange := rfl
@[simp] theorem ringRemove_pool (n : AreaNo) : (ringRemove s n).pool = s.pool := rfl
@[simp] theorem ringRemove_channels (n : AreaNo) : (ringRemove s n).channels = s.channels := rfl
@[simp] theorem ringRemove_cells (n : AreaNo) : (ringRemove s n).cells = s.cells := rfl
@[simp] theorem ringRemove_ports (n : AreaNo) : (ringRemove s n).ports = s.ports := rfl
@[simp] theorem ringRemove_lastServed (n : AreaNo) : (ringRemove s n).lastServed = s.lastServed := rfl
@[simp] theorem ringRemove_freeNext (n : AreaNo) : (ringRemove s n).freeNext = s.freeNext := rfl
@[simp] theorem ringRemove_pending (n : AreaNo) : (ringRemove s n).pending = s.pending := rfl

@[simp] theorem setLine_link (x : Line) : (setLine s x).link = s.link := rfl
@[simp] theorem setLine_service (x : Line) : (setLine s x).service = s.service := rfl
@[simp] theorem setLine_settings (x : Line) : (setLine s x).settings = s.settings := rfl
@[simp] theorem setLine_plan (x : Line) : (setLine s x).plan = s.plan := rfl
@[simp] theorem setLine_exchange (x : Line) : (setLine s x).exchange = s.exchange := rfl
@[simp] theorem setLine_pool (x : Line) : (setLine s x).pool = s.pool := rfl
@[simp] theorem setLine_areas (x : Line) : (setLine s x).areas = s.areas := rfl
@[simp] theorem setLine_channels (x : Line) : (setLine s x).channels = s.channels := rfl
@[simp] theorem setLine_cells (x : Line) : (setLine s x).cells = s.cells := rfl
@[simp] theorem setLine_ports (x : Line) : (setLine s x).ports = s.ports := rfl
@[simp] theorem setLine_lastServed (x : Line) : (setLine s x).lastServed = s.lastServed := rfl
@[simp] theorem setLine_freeNext (x : Line) : (setLine s x).freeNext = s.freeNext := rfl
@[simp] theorem setLine_pending (x : Line) : (setLine s x).pending = s.pending := rfl

@[simp] theorem setBadChecks_link (b : Bool) : (setBadChecks s b).link = s.link := rfl
@[simp] theorem setBadChecks_service (b : Bool) : (setBadChecks s b).service = s.service := rfl
@[simp] theorem setBadChecks_settings (b : Bool) : (setBadChecks s b).settings = s.settings := rfl
@[simp] theorem setBadChecks_plan (b : Bool) : (setBadChecks s b).plan = s.plan := rfl
@[simp] theorem setBadChecks_exchange (b : Bool) : (setBadChecks s b).exchange = s.exchange := rfl
@[simp] theorem setBadChecks_pool (b : Bool) : (setBadChecks s b).pool = s.pool := rfl
@[simp] theorem setBadChecks_areas (b : Bool) : (setBadChecks s b).areas = s.areas := rfl
@[simp] theorem setBadChecks_channels (b : Bool) : (setBadChecks s b).channels = s.channels := rfl
@[simp] theorem setBadChecks_cells (b : Bool) : (setBadChecks s b).cells = s.cells := rfl
@[simp] theorem setBadChecks_ports (b : Bool) : (setBadChecks s b).ports = s.ports := rfl
@[simp] theorem setBadChecks_lastServed (b : Bool) : (setBadChecks s b).lastServed = s.lastServed := rfl
@[simp] theorem setBadChecks_freeNext (b : Bool) : (setBadChecks s b).freeNext = s.freeNext := rfl
@[simp] theorem setBadChecks_pending (b : Bool) : (setBadChecks s b).pending = s.pending := rfl

@[simp] theorem setBlind_link (b : Bool) : (setBlind s b).link = s.link := rfl
@[simp] theorem setBlind_service (b : Bool) : (setBlind s b).service = s.service := rfl
@[simp] theorem setBlind_settings (b : Bool) : (setBlind s b).settings = s.settings := rfl
@[simp] theorem setBlind_plan (b : Bool) : (setBlind s b).plan = s.plan := rfl
@[simp] theorem setBlind_exchange (b : Bool) : (setBlind s b).exchange = s.exchange := rfl
@[simp] theorem setBlind_pool (b : Bool) : (setBlind s b).pool = s.pool := rfl
@[simp] theorem setBlind_areas (b : Bool) : (setBlind s b).areas = s.areas := rfl
@[simp] theorem setBlind_channels (b : Bool) : (setBlind s b).channels = s.channels := rfl
@[simp] theorem setBlind_cells (b : Bool) : (setBlind s b).cells = s.cells := rfl
@[simp] theorem setBlind_ports (b : Bool) : (setBlind s b).ports = s.ports := rfl
@[simp] theorem setBlind_lastServed (b : Bool) : (setBlind s b).lastServed = s.lastServed := rfl
@[simp] theorem setBlind_freeNext (b : Bool) : (setBlind s b).freeNext = s.freeNext := rfl
@[simp] theorem setBlind_pending (b : Bool) : (setBlind s b).pending = s.pending := rfl

@[simp] theorem setLoops_framer (v : Vector Bool 24) : (setLoops s v).framer = s.framer := rfl
@[simp] theorem setLoops_link (v : Vector Bool 24) : (setLoops s v).link = s.link := rfl
@[simp] theorem setLoops_settings (v : Vector Bool 24) : (setLoops s v).settings = s.settings := rfl
@[simp] theorem setLoops_plan (v : Vector Bool 24) : (setLoops s v).plan = s.plan := rfl
@[simp] theorem setLoops_exchange (v : Vector Bool 24) : (setLoops s v).exchange = s.exchange := rfl
@[simp] theorem setLoops_pool (v : Vector Bool 24) : (setLoops s v).pool = s.pool := rfl
@[simp] theorem setLoops_areas (v : Vector Bool 24) : (setLoops s v).areas = s.areas := rfl
@[simp] theorem setLoops_channels (v : Vector Bool 24) : (setLoops s v).channels = s.channels := rfl
@[simp] theorem setLoops_cells (v : Vector Bool 24) : (setLoops s v).cells = s.cells := rfl
@[simp] theorem setLoops_ports (v : Vector Bool 24) : (setLoops s v).ports = s.ports := rfl
@[simp] theorem setLoops_lastServed (v : Vector Bool 24) : (setLoops s v).lastServed = s.lastServed := rfl
@[simp] theorem setLoops_freeNext (v : Vector Bool 24) : (setLoops s v).freeNext = s.freeNext := rfl
@[simp] theorem setLoops_pending (v : Vector Bool 24) : (setLoops s v).pending = s.pending := rfl

@[simp] theorem setBadStart_framer (n : Option Nat) : (setBadStart s n).framer = s.framer := rfl
@[simp] theorem setBadStart_link (n : Option Nat) : (setBadStart s n).link = s.link := rfl
@[simp] theorem setBadStart_settings (n : Option Nat) : (setBadStart s n).settings = s.settings := rfl
@[simp] theorem setBadStart_plan (n : Option Nat) : (setBadStart s n).plan = s.plan := rfl
@[simp] theorem setBadStart_exchange (n : Option Nat) : (setBadStart s n).exchange = s.exchange := rfl
@[simp] theorem setBadStart_pool (n : Option Nat) : (setBadStart s n).pool = s.pool := rfl
@[simp] theorem setBadStart_areas (n : Option Nat) : (setBadStart s n).areas = s.areas := rfl
@[simp] theorem setBadStart_channels (n : Option Nat) : (setBadStart s n).channels = s.channels := rfl
@[simp] theorem setBadStart_cells (n : Option Nat) : (setBadStart s n).cells = s.cells := rfl
@[simp] theorem setBadStart_ports (n : Option Nat) : (setBadStart s n).ports = s.ports := rfl
@[simp] theorem setBadStart_lastServed (n : Option Nat) : (setBadStart s n).lastServed = s.lastServed := rfl
@[simp] theorem setBadStart_freeNext (n : Option Nat) : (setBadStart s n).freeNext = s.freeNext := rfl
@[simp] theorem setBadStart_pending (n : Option Nat) : (setBadStart s n).pending = s.pending := rfl

/-! ## One element read after one element written -/

@[simp] theorem PerPort.get_set {α : Type} (x : PerPort α) (p q : Port) (a : α) :
    (x.set p a).get q = if q = p then a else x.get q := by
  cases p <;> cases q <;> rfl

@[simp] theorem State.setPort_port (p q : Port) (x : PortState) :
    (s.setPort p x).port q = if q = p then x else s.port q := PerPort.get_set ..

@[simp] theorem State.setChannel_channel (c d : ChannelNo) (x : Channel) :
    (s.setChannel c x).channel d = if d = c then x else s.channel d := by
  simp [State.setChannel, State.channel, Vector.getElem_set, Fin.ext_iff, eq_comm]

@[simp] theorem State.setChannelState_channel (c d : ChannelNo) (x : ChannelState) :
    (s.setChannelState c x).channel d = if d = c then { s.channel c with state := x } else s.channel d :=
  State.setChannel_channel ..

@[simp] theorem State.setArea_area (m n : AreaNo) (x : Area) :
    (s.setArea n x).area m = if m = n then x else s.area m := by
  simp [State.setArea, State.area, Vector.getElem_set, Fin.ext_iff, eq_comm]

@[simp] theorem State.setCell_cell (k l : CellNo) (x : Cell) :
    (s.setCell k x).cell l = if l = k then x else s.cell l := by
  simp [State.setCell, State.cell, Vector.getElem_set, Fin.ext_iff, eq_comm]

/-! ## Elements that another field's update leaves -/

@[simp] theorem State.setPort_channel (p : Port) (q : PortState) (c : ChannelNo) :
    (s.setPort p q).channel c = s.channel c := rfl
@[simp] theorem State.setPort_area (p : Port) (q : PortState) (n : AreaNo) :
    (s.setPort p q).area n = s.area n := rfl
@[simp] theorem State.setPort_cell (p : Port) (q : PortState) (k : CellNo) :
    (s.setPort p q).cell k = s.cell k := rfl
@[simp] theorem State.setChannel_port (c : ChannelNo) (x : Channel) (p : Port) :
    (s.setChannel c x).port p = s.port p := rfl
@[simp] theorem State.setChannel_area (c : ChannelNo) (x : Channel) (n : AreaNo) :
    (s.setChannel c x).area n = s.area n := rfl
@[simp] theorem State.setChannel_cell (c : ChannelNo) (x : Channel) (k : CellNo) :
    (s.setChannel c x).cell k = s.cell k := rfl
@[simp] theorem State.setChannelState_port (c : ChannelNo) (x : ChannelState) (p : Port) :
    (s.setChannelState c x).port p = s.port p := rfl
@[simp] theorem State.setChannelState_area (c : ChannelNo) (x : ChannelState) (n : AreaNo) :
    (s.setChannelState c x).area n = s.area n := rfl
@[simp] theorem State.setChannelState_cell (c : ChannelNo) (x : ChannelState) (k : CellNo) :
    (s.setChannelState c x).cell k = s.cell k := rfl
@[simp] theorem State.setArea_port (n : AreaNo) (x : Area) (p : Port) :
    (s.setArea n x).port p = s.port p := rfl
@[simp] theorem State.setArea_channel (n : AreaNo) (x : Area) (c : ChannelNo) :
    (s.setArea n x).channel c = s.channel c := rfl
@[simp] theorem State.setArea_cell (n : AreaNo) (x : Area) (k : CellNo) :
    (s.setArea n x).cell k = s.cell k := rfl
@[simp] theorem State.setCell_port (k : CellNo) (x : Cell) (p : Port) :
    (s.setCell k x).port p = s.port p := rfl
@[simp] theorem State.setCell_channel (k : CellNo) (x : Cell) (c : ChannelNo) :
    (s.setCell k x).channel c = s.channel c := rfl
@[simp] theorem State.setCell_area (k : CellNo) (x : Cell) (n : AreaNo) :
    (s.setCell k x).area n = s.area n := rfl
@[simp] theorem State.raise_channel (p : Port) (e : Event) (c : ChannelNo) :
    (s.raise p e).channel c = s.channel c := rfl
@[simp] theorem State.raise_area (p : Port) (e : Event) (n : AreaNo) :
    (s.raise p e).area n = s.area n := rfl
@[simp] theorem State.raise_cell (p : Port) (e : Event) (k : CellNo) :
    (s.raise p e).cell k = s.cell k := rfl
@[simp] theorem State.raiseAll_channel (e : Event) (c : ChannelNo) :
    (s.raiseAll e).channel c = s.channel c := rfl
@[simp] theorem State.raiseAll_area (e : Event) (n : AreaNo) : (s.raiseAll e).area n = s.area n := rfl
@[simp] theorem State.raiseAll_cell (e : Event) (k : CellNo) : (s.raiseAll e).cell k = s.cell k := rfl
@[simp] theorem State.recordChange_channel (k : CellNo) (c : ChannelNo) :
    (s.recordChange k).channel c = s.channel c := rfl
@[simp] theorem State.recordChange_cell (k l : CellNo) : (s.recordChange k).cell l = s.cell l := rfl
@[simp] theorem State.recordChange_area (k : CellNo) (n : AreaNo) :
    (s.recordChange k).area n = s.area n := rfl

/-! ## Ports: events and completions -/

@[simp] theorem State.raise_port (p q : Port) (e : Event) :
    (s.raise p e).port q = if q = p then (s.port p).raise e else s.port q := State.setPort_port ..

@[simp] theorem State.raiseAll_port (e : Event) (p : Port) : (s.raiseAll e).port p = (s.port p).raise e := by
  cases p <;> rfl

@[simp] theorem State.recordChange_port (k : CellNo) (p : Port) :
    (s.recordChange k).port p = (s.port p).recordChange k := by
  cases p <;> rfl

/-- Raising sets one event and leaves the others (R161). -/
@[simp] theorem PortState.raise_holds (q : PortState) (e f : Event) :
    (q.raise e).holds f = (q.holds f || f == e) := by
  cases e <;> cases f <;> simp [PortState.raise, PortState.holds, Event.word, oneBit, Event.bit]

/-- A completion changes its port and the last port served, no more (R159, R160). -/
@[simp] theorem complete_port (p q : Port) (r : Reply) :
    (complete p r s).port q = if q = p then (s.port p).finish r else s.port q := State.setPort_port ..

theorem complete_frame (p : Port) (r : Reply) :
    complete p r s = { s with ports := (complete p r s).ports, lastServed := p } := rfl

theorem takeCommand_taken (p : Port) (act : State → Reply × State) :
    takeCommand true p act s = .next (complete p (act s).1 (act s).2) := rfl

theorem takeCommand_notTaken (p : Port) (act : State → Reply × State) :
    takeCommand false p act s = .next s := rfl

end Sys2Proof.Machine
end

