-- ==== Sys2Proof/Laws/Channels.lean ====
section
/-! SUPPORT. Which table received frames are read against across a swap. What the operations of the channel table
and the cell table can do: they touch channels, cells and ports alone, keep the event sets in range and the pins
of the ports as they are, lengthen no order queue, and leave every gate shut. -/

namespace Sys2Proof.Machine

open Sys2Proof

/-! ## The table received frames are read against -/

theorem SlotPlan.receiveTable_of_retained {x : SlotPlan} {t : SlotTable} (h : x.retained = some t) :
    x.receiveTable = t := by
  rw [SlotPlan.receiveTable, h]; rfl

theorem SlotPlan.receiveTable_of_none {x : SlotPlan} (h : x.retained = none) :
    x.receiveTable = (x.bank x.receive).inn := by
  rw [SlotPlan.receiveTable, h]; rfl

/-- A swap does not change the table that received frames are read against (R93, R140). -/
@[simp] theorem swapBanks_receiveTable (s : State) :
    (swapBanks s).plan.receiveTable = s.plan.receiveTable := rfl

/-- From a received frame-0 place on, frames are read against the active bank's inbound table (R69). -/
@[simp] theorem SlotPlan.followActive_receiveTable (x : SlotPlan) :
    x.followActive.receiveTable = x.activeTables.inn := rfl

/-! ## Event sets -/

theorem Event.word_inRange (e : Event) : e.word &&& eventBits = e.word := by
  cases e <;> decide

theorem PortState.eventsInRange_raise {q : PortState} (e : Event) (h : q.eventsInRange) :
    (q.raise e).eventsInRange := by
  refine ⟨?_, h.2⟩
  have h1 : q.events &&& eventBits = q.events := h.1
  have h2 := e.word_inRange
  show (q.events ||| e.word) &&& eventBits = q.events ||| e.word
  rw [BitVec.and_comm, BitVec.and_or_distrib_left, BitVec.and_comm eventBits, h1,
    BitVec.and_comm eventBits, h2]

theorem PortState.eventsInRange_recordChange {q : PortState} (k : CellNo) (h : q.eventsInRange) :
    (q.recordChange k).eventsInRange := by
  unfold PortState.recordChange
  split
  · exact PortState.eventsInRange_raise .cell (q := { q with changed := _ }) h
  · exact h

theorem PortState.eventsInRange_complete {q : PortState} (r : CompletionRecord)
    (h : q.eventsInRange) : (q.complete r).eventsInRange :=
  PortState.eventsInRange_raise .completion
    (q := { q with completions := q.completions ++ [r], orderCount := q.orderCount - 1 }) h

theorem PortState.eventsInRange_finish {q : PortState} (r : Reply) (h : q.eventsInRange) :
    (q.finish r).eventsInRange :=
  PortState.eventsInRange_raise .cmdDone
    (q := { q with
      resultCode := r.code
      result := blockOf r.results
      command := if r.code.succeeds then .done else .failed }) h

theorem EventsInRange.setPort {s : State} {p : Port} {q : PortState} (h : EventsInRange s)
    (hq : q.eventsInRange) : EventsInRange (s.setPort p q) := by
  intro r
  rw [State.setPort_port]
  split
  · exact hq
  · exact h r

theorem EventsInRange.raise {s : State} (p : Port) (e : Event) (h : EventsInRange s) :
    EventsInRange (s.raise p e) :=
  h.setPort (PortState.eventsInRange_raise e (h p))

theorem EventsInRange.raiseAll {s : State} (e : Event) (h : EventsInRange s) :
    EventsInRange (s.raiseAll e) := ((h.raise .p1 e).raise .p2 e).raise .p3 e

theorem EventsInRange.raiseOwner {s : State} (o : Option Port) (e : Event) (h : EventsInRange s) :
    EventsInRange (s.raiseOwner o e) := by
  cases o with
  | none => exact h
  | some p => exact h.raise p e

theorem EventsInRange.recordChange {s : State} (k : CellNo) (h : EventsInRange s) :
    EventsInRange (s.recordChange k) := by
  intro p
  rw [State.recordChange_port]
  exact PortState.eventsInRange_recordChange k (h p)

/-! ## The pins of the ports -/

/-- Every port's select line and SDO are as before. -/
def SamePins (s t : State) : Prop :=
  ∀ p : Port, (t.port p).transaction = (s.port p).transaction ∧ (t.port p).sdo = (s.port p).sdo

theorem SamePins.refl (s : State) : SamePins s s := fun _ => ⟨rfl, rfl⟩

theorem SamePins.trans {s t u : State} (h : SamePins s t) (k : SamePins t u) : SamePins s u :=
  fun p => ⟨(k p).1.trans (h p).1, (k p).2.trans (h p).2⟩

/-- The same ports have the same pins. -/
theorem SamePins.of_ports {s t : State} (h : t.ports = s.ports) : SamePins s t := by
  intro p
  unfold State.port
  rw [h]
  exact ⟨rfl, rfl⟩

theorem SamePins.setPort {s : State} {p : Port} {q : PortState}
    (h : q.transaction = (s.port p).transaction ∧ q.sdo = (s.port p).sdo) :
    SamePins s (s.setPort p q) := by
  intro r
  rw [State.setPort_port]
  split
  · rename_i hr
    rw [hr]
    exact h
  · exact ⟨rfl, rfl⟩

theorem SamePins.raise (s : State) (p : Port) (e : Event) : SamePins s (s.raise p e) :=
  SamePins.setPort ⟨rfl, rfl⟩

theorem SamePins.recordChange (s : State) (k : CellNo) : SamePins s (s.recordChange k) := by
  intro p
  rw [State.recordChange_port]
  unfold PortState.recordChange
  split <;> exact ⟨rfl, rfl⟩

/-- A step that leaves the pins as they are keeps SDO in accord with the select line. -/
theorem SamePins.sdoFollows {s t : State} (h : SamePins s t) (hs : SdoFollowsSelect s) :
    SdoFollowsSelect t := by
  intro p
  rw [(h p).1, (h p).2]
  exact hs p

/-! ## The relation -/

/-- What a step of the channel table or the cell table may do to the state. -/
structure ChannelStep (s t : State) : Prop where
  side : t = { s with channels := t.channels, cells := t.cells, ports := t.ports }
  events : EventsInRange s → EventsInRange t
  queues : ∀ c, (t.channel c).queue.length ≤ (s.channel c).queue.length
  gates : GatesShut s → GatesShut t
  pins : SamePins s t

theorem ChannelStep.refl (s : State) : ChannelStep s s :=
  ⟨rfl, id, fun _ => le_rfl, id, SamePins.refl s⟩

theorem ChannelStep.trans {s t u : State} (h : ChannelStep s t) (k : ChannelStep t u) :
    ChannelStep s u := by
  refine ⟨?_, k.events ∘ h.events, fun c => (k.queues c).trans (h.queues c), k.gates ∘ h.gates,
    h.pins.trans k.pins⟩
  rw [k.side, h.side]

theorem ChannelStep.framer {s t : State} (h : ChannelStep s t) : t.framer = s.framer := by rw [h.side]
theorem ChannelStep.link {s t : State} (h : ChannelStep s t) : t.link = s.link := by rw [h.side]
theorem ChannelStep.service {s t : State} (h : ChannelStep s t) : t.service = s.service := by rw [h.side]
theorem ChannelStep.settings {s t : State} (h : ChannelStep s t) : t.settings = s.settings := by
  rw [h.side]
theorem ChannelStep.plan {s t : State} (h : ChannelStep s t) : t.plan = s.plan := by rw [h.side]
theorem ChannelStep.exchange {s t : State} (h : ChannelStep s t) : t.exchange = s.exchange := by
  rw [h.side]
theorem ChannelStep.pool {s t : State} (h : ChannelStep s t) : t.pool = s.pool := by rw [h.side]
theorem ChannelStep.areas {s t : State} (h : ChannelStep s t) : t.areas = s.areas := by rw [h.side]
theorem ChannelStep.lastServed {s t : State} (h : ChannelStep s t) : t.lastServed = s.lastServed := by
  rw [h.side]
theorem ChannelStep.freeNext {s t : State} (h : ChannelStep s t) : t.freeNext = s.freeNext := by
  rw [h.side]
theorem ChannelStep.pending {s t : State} (h : ChannelStep s t) : t.pending = s.pending := by rw [h.side]
theorem ChannelStep.area {s t : State} (h : ChannelStep s t) (n : AreaNo) : t.area n = s.area n := by
  unfold State.area
  rw [h.areas]

/-- Steps one after another over a list. -/
theorem ChannelStep.foldl {α : Type} {f : State → α → State} (h : ∀ s x, ChannelStep s (f s x))
    (l : List α) : ∀ s, ChannelStep s (l.foldl f s) := by
  induction l with
  | nil => exact ChannelStep.refl
  | cons x l ih => exact fun s => (h s x).trans (ih _)

/-! ## Ports -/

theorem ChannelStep.setPort {s : State} {p : Port} {q : PortState}
    (hq : (s.port p).eventsInRange → q.eventsInRange)
    (hp : q.transaction = (s.port p).transaction ∧ q.sdo = (s.port p).sdo := by exact ⟨rfl, rfl⟩) :
    ChannelStep s (s.setPort p q) :=
  ⟨rfl, fun h => h.setPort (hq (h p)), fun _ => le_rfl, id, SamePins.setPort hp⟩

theorem ChannelStep.raise (s : State) (p : Port) (e : Event) : ChannelStep s (s.raise p e) :=
  ChannelStep.setPort (PortState.eventsInRange_raise e)

theorem ChannelStep.raiseAll (s : State) (e : Event) : ChannelStep s (s.raiseAll e) :=
  ⟨rfl, fun h => h.raiseAll e, fun _ => le_rfl, id,
    ((SamePins.raise s .p1 e).trans (SamePins.raise _ .p2 e)).trans (SamePins.raise _ .p3 e)⟩

theorem ChannelStep.raiseOwner (s : State) (o : Option Port) (e : Event) :
    ChannelStep s (s.raiseOwner o e) := by
  cases o with
  | none => exact ChannelStep.refl s
  | some p => exact ChannelStep.raise s p e

theorem ChannelStep.recordChange (s : State) (k : CellNo) : ChannelStep s (s.recordChange k) :=
  ⟨rfl, fun h => h.recordChange k, fun _ => le_rfl, id, SamePins.recordChange s k⟩

/-! ## Channels -/

theorem ChannelStep.setChannel {s : State} {c : ChannelNo} {x : Channel}
    (hx : x.queue.length ≤ (s.channel c).queue.length) : ChannelStep s (s.setChannel c x) := by
  refine ⟨rfl, id, fun d => ?_, id, SamePins.of_ports rfl⟩
  rw [State.setChannel_channel]
  split
  · rename_i h
    rw [h]
    exact hx
  · exact le_rfl

theorem ChannelStep.setChannelState (s : State) (c : ChannelNo) (x : ChannelState) :
    ChannelStep s (s.setChannelState c x) := ChannelStep.setChannel le_rfl

/-! ## Cells -/

/-- What a step on cell `k` may do before its gate is shut again. -/
structure CellStep (k : CellNo) (s t : State) : Prop where
  side : t = { s with channels := t.channels, cells := t.cells, ports := t.ports }
  events : EventsInRange s → EventsInRange t
  queues : ∀ c, (t.channel c).queue.length ≤ (s.channel c).queue.length
  others : ∀ l, l ≠ k → t.cell l = s.cell l
  pins : SamePins s t

theorem CellStep.refl (k : CellNo) (s : State) : CellStep k s s :=
  ⟨rfl, id, fun _ => le_rfl, fun _ _ => rfl, SamePins.refl s⟩

theorem CellStep.trans {k : CellNo} {s t u : State} (h : CellStep k s t) (g : CellStep k t u) :
    CellStep k s u := by
  refine ⟨?_, g.events ∘ h.events, fun c => (g.queues c).trans (h.queues c),
    fun l hl => (g.others l hl).trans (h.others l hl), h.pins.trans g.pins⟩
  rw [g.side, h.side]

/-- A step on cell `k` that leaves its gate shut is a step of the cell table. -/
theorem CellStep.toChannelStep {k : CellNo} {s t : State} (h : CellStep k s t)
    (shut : GatesShut s → (t.cell k).value ≠ 0#16 → (t.cell k).waiters = []) : ChannelStep s t := by
  refine ⟨h.side, h.events, h.queues, fun hs l => ?_, h.pins⟩
  by_cases hl : l = k
  · subst hl
    exact shut hs
  · rw [h.others l hl]
    exact hs l

theorem CellStep.setCell (k : CellNo) (s : State) (x : Cell) : CellStep k s (s.setCell k x) :=
  ⟨rfl, id, fun _ => le_rfl, fun l hl => by rw [State.setCell_cell, if_neg hl], SamePins.of_ports rfl⟩

theorem CellStep.writeCell (k : CellNo) (s : State) (v : Word) : CellStep k s (s.writeCell k v) := by
  unfold State.writeCell
  split
  · exact CellStep.refl k s
  · exact (CellStep.setCell k s _).trans
      ⟨rfl, fun h => h.recordChange k, fun _ => le_rfl, fun _ _ => rfl, SamePins.recordChange _ k⟩

/-- A write gives the cell its value and leaves its waiter list. -/
theorem State.writeCell_cell (s : State) (k : CellNo) (v : Word) :
    (s.writeCell k v).cell k = { s.cell k with value := v } := by
  unfold State.writeCell
  split
  · rename_i h
    rw [← h]
  · simp

theorem State.writeCell_waiters (s : State) (k : CellNo) (v : Word) :
    ((s.writeCell k v).cell k).waiters = (s.cell k).waiters := by rw [State.writeCell_cell]

theorem CellStep.gateTake (k : CellNo) (s : State) (w : ChannelNo) (rest : List ChannelNo) :
    CellStep k s (gateTake s k w rest) := by
  unfold Machine.gateTake
  refine (CellStep.writeCell k s _).trans ((CellStep.setCell k _ _).trans
    ⟨rfl, id, fun c => ?_, fun _ _ => rfl, SamePins.of_ports rfl⟩)
  exact (ChannelStep.setChannelState _ w .active).queues c

theorem gateTake_waiters (k : CellNo) (s : State) (w : ChannelNo) (rest : List ChannelNo) :
    ((gateTake s k w rest).cell k).waiters = rest := by
  unfold gateTake
  simp

/-- The takes on a cell: a step on it that ends with the value 0 or the list empty (R149). -/
theorem gateTakes_spec (k : CellNo) (ws : List ChannelNo) :
    ∀ s : State, (s.cell k).waiters = ws →
      CellStep k s (gateTakes k ws s).1 ∧
        (((gateTakes k ws s).1.cell k).value ≠ 0#16 → ((gateTakes k ws s).1.cell k).waiters = []) := by
  induction ws with
  | nil => exact fun s h => ⟨CellStep.refl k s, fun _ => h⟩
  | cons w rest ih =>
    intro s h
    simp only [gateTakes]
    split
    · rename_i hv
      exact ⟨CellStep.refl k s, fun hn => absurd hv hn⟩
    · have := ih (gateTake s k w rest) (gateTake_waiters k s w rest)
      exact ⟨(CellStep.gateTake k s w rest).trans this.1, this.2⟩

/-- The gate rule leaves the cell's gate shut and touches no other cell (R149). -/
theorem gateRule_spec (s : State) (k : CellNo) :
    CellStep k s (gateRule s k).1 ∧
      (((gateRule s k).1.cell k).value ≠ 0#16 → ((gateRule s k).1.cell k).waiters = []) :=
  gateTakes_spec k (s.cell k).waiters s rfl

theorem ChannelStep.writeAndGate (s : State) (k : CellNo) (v : Word) :
    ChannelStep s (gateRule (s.writeCell k v) k).1 :=
  ((CellStep.writeCell k s v).trans (gateRule_spec _ k).1).toChannelStep fun _ => (gateRule_spec _ k).2

theorem ChannelStep.joinGate (s : State) (c : ChannelNo) (k : CellNo) : ChannelStep s (joinGate s c k) :=
  ((CellStep.setCell k s _).trans (gateRule_spec _ k).1).toChannelStep fun _ => (gateRule_spec _ k).2

theorem ChannelStep.leaveGate (s : State) (c : ChannelNo) (k : CellNo) :
    ChannelStep s (leaveGate s c k) := by
  refine (CellStep.setCell k s _).toChannelStep fun hs hv => ?_
  simp only [State.setCell_cell, if_true] at hv ⊢
  rw [hs k hv]
  rfl

theorem ChannelStep.incrementCell (s : State) (k : CellNo) : ChannelStep s (incrementCell s k) :=
  ChannelStep.writeAndGate s k _

theorem ChannelStep.peerWrite (s : State) (k : CellNo) (v : Word) : ChannelStep s (peerWrite s k v) :=
  ChannelStep.writeAndGate s k v

/-- A cell command that raises no waiter: its new value is above 0 only where the old one was. -/
theorem ChannelStep.lowerCell {s : State} {k : CellNo} {v : Word}
    (hv : (s.cell k).value = 0#16 → v = 0#16) : ChannelStep s (s.writeCell k v) := by
  refine (CellStep.writeCell k s v).toChannelStep fun hs h => ?_
  rw [State.writeCell_cell] at h ⊢
  exact hs k fun h0 => h (hv h0)

/-! ## Orders -/

theorem ChannelStep.becomeCurrent (s : State) (c : ChannelNo) : ChannelStep s (becomeCurrent s c) := by
  unfold Machine.becomeCurrent
  split
  · exact ChannelStep.setChannelState ..
  · split
    · exact ChannelStep.setChannelState ..
    · exact (ChannelStep.setChannelState ..).trans (ChannelStep.joinGate ..)

theorem ChannelStep.leaveIfWaiting (s : State) (c : ChannelNo) : ChannelStep s (leaveIfWaiting s c) := by
  unfold Machine.leaveIfWaiting
  split
  · split
    · exact ChannelStep.leaveGate ..
    · exact ChannelStep.refl s
  · exact ChannelStep.refl s

theorem ChannelStep.recordEnd (s : State) (c : ChannelNo) (o : Order) (r : OrderOutcome) :
    ChannelStep s (recordEnd s c o r) := by
  unfold Machine.recordEnd
  split
  · exact ChannelStep.setPort (PortState.eventsInRange_complete _)
  · exact ChannelStep.refl s

theorem ChannelStep.countCompletion (s : State) (o : Order) (r : OrderOutcome) :
    ChannelStep s (countCompletion s o r) := by
  unfold Machine.countCompletion
  split
  · split
    · exact ChannelStep.incrementCell ..
    · exact ChannelStep.refl s
  · exact ChannelStep.refl s

theorem ChannelStep.endHead (s : State) (c : ChannelNo) (r : OrderOutcome) :
    ChannelStep s (endHead s c r) := by
  unfold Machine.endHead
  split
  · exact ChannelStep.refl s
  · rename_i o rest h
    exact ((ChannelStep.setChannel (by simp [h])).trans (ChannelStep.recordEnd ..)).trans
      (ChannelStep.countCompletion ..)

theorem ChannelStep.endAndAdvance (s : State) (c : ChannelNo) (r : OrderOutcome) :
    ChannelStep s (endAndAdvance s c r) := (ChannelStep.endHead ..).trans (ChannelStep.becomeCurrent ..)

theorem ChannelStep.haltChannel (s : State) (c : ChannelNo) (r : HaltReason) :
    ChannelStep s (haltChannel s c r) := by
  refine ChannelStep.trans (ChannelStep.setChannel ?_) (ChannelStep.raiseOwner ..)
  exact le_rfl

theorem ChannelStep.endAndHalt (s : State) (c : ChannelNo) (r : OrderOutcome) (h : HaltReason) :
    ChannelStep s (endAndHalt s c r h) :=
  ((ChannelStep.leaveIfWaiting ..).trans (ChannelStep.endHead ..)).trans (ChannelStep.haltChannel ..)

theorem ChannelStep.abortOrders (c : ChannelNo) (l : List Order) :
    ∀ s, ChannelStep s (abortOrders c l s) := by
  induction l with
  | nil => exact ChannelStep.refl
  | cons _ l ih => exact fun s => (ChannelStep.endHead ..).trans (ih _)

theorem ChannelStep.checkArea (s : State) (c : ChannelNo) : ChannelStep s (checkArea s c) := by
  unfold Machine.checkArea
  split
  · split
    · exact ChannelStep.endAndHalt ..
    · exact ChannelStep.haltChannel ..
  · exact ChannelStep.refl s

theorem ChannelStep.checkAreas (order : ChannelOrder) (s : State) :
    ChannelStep s (checkAreas order s) := ChannelStep.foldl ChannelStep.checkArea _ s

theorem ChannelStep.setLoopPause (s : State) (c : ChannelNo) (b : Bool) :
    ChannelStep s (setLoopPause s c b) := by
  unfold Machine.setLoopPause
  split
  · exact ChannelStep.refl s
  · refine ChannelStep.trans (ChannelStep.setChannel ?_) (ChannelStep.raiseOwner ..)
    exact le_rfl

theorem ChannelStep.updateLoopPauses (s : State) : ChannelStep s (updateLoopPauses s) := by
  refine ChannelStep.foldl (fun t c => ?_) _ s
  unfold updateLoopPause
  split
  · exact ChannelStep.setLoopPause ..
  · exact ChannelStep.refl t

theorem ChannelStep.moveHead (s : State) (c : ChannelNo) (n : Nat) : ChannelStep s (moveHead s c n) := by
  unfold Machine.moveHead
  split
  · exact ChannelStep.refl s
  · rename_i h
    exact ChannelStep.setChannel (by simp [h])

theorem ChannelStep.channelDown (s : State) (c : ChannelNo) : ChannelStep s (channelDown s c) := by
  unfold Machine.channelDown
  refine ChannelStep.trans ?_ (ChannelStep.setLoopPause ..)
  split
  · exact ChannelStep.endAndHalt ..
  · exact ChannelStep.refl s

theorem ChannelStep.channelsDown (order : ChannelOrder) (s : State) :
    ChannelStep s (channelsDown order s) := ChannelStep.foldl ChannelStep.channelDown _ s

end Sys2Proof.Machine
end

