-- ==== Sys2Proof/Laws/Memory.lean ====
section
/-! SUPPORT. The buffer pool: every operation keeps its canonical form, and a byte read after a write is
the byte written at that address and the old byte at every other. -/

namespace Sys2Proof.Machine

open Sys2Proof

theorem Memory.mem_insert {x : Nat} {v : Byte} {m : List Host.Cell} {c : Host.Cell}
    (h : c ∈ Memory.insert x v m) : c = (x, v) ∨ c ∈ m := by
  induction m with
  | nil => simpa [Memory.insert] using h
  | cons d rest ih =>
    simp only [Memory.insert] at h
    split at h
    · simpa using h
    · split at h
      · rcases List.mem_cons.1 h with h | h <;> simp [h]
      · rcases List.mem_cons.1 h with h | h
        · simp [h]
        · rcases ih h with h | h <;> simp [h]

theorem Memory.mem_remove {x : Nat} {m : List Host.Cell} {c : Host.Cell}
    (h : c ∈ Memory.remove x m) : c ∈ m := by
  induction m with
  | nil => simpa [Memory.remove] using h
  | cons d rest ih =>
    simp only [Memory.remove] at h
    split at h
    · simp [h]
    · rcases List.mem_cons.1 h with h | h
      · simp [h]
      · simp [ih h]

theorem Memory.insert_rising {x : Nat} {v : Byte} {m : List Host.Cell}
    (h : m.Pairwise fun a b => a.1 < b.1) :
    (Memory.insert x v m).Pairwise fun a b => a.1 < b.1 := by
  induction m with
  | nil => simp [Memory.insert]
  | cons d rest ih =>
    obtain ⟨hd, hr⟩ := List.pairwise_cons.1 h
    simp only [Memory.insert]
    split
    · rename_i hx
      exact List.pairwise_cons.2 ⟨fun c hc => by
        rcases List.mem_cons.1 hc with rfl | hc
        · exact hx
        · exact lt_trans hx (hd c hc), h⟩
    · split
      · rename_i hx
        exact List.pairwise_cons.2 ⟨fun c hc => hx ▸ hd c hc, hr⟩
      · rename_i h1 h2
        exact List.pairwise_cons.2 ⟨fun c hc => by
          rcases Memory.mem_insert hc with rfl | hc
          · exact lt_of_le_of_ne (not_lt.1 h1) (Ne.symm h2)
          · exact hd c hc, ih hr⟩

theorem Memory.remove_rising {x : Nat} {m : List Host.Cell}
    (h : m.Pairwise fun a b => a.1 < b.1) :
    (Memory.remove x m).Pairwise fun a b => a.1 < b.1 := by
  induction m with
  | nil => simp [Memory.remove]
  | cons d rest ih =>
    obtain ⟨hd, hr⟩ := List.pairwise_cons.1 h
    simp only [Memory.remove]
    split
    · exact hr
    · exact List.pairwise_cons.2 ⟨fun c hc => hd c (Memory.mem_remove hc), ih hr⟩

/-- A write keeps the canonical form. -/
theorem Memory.write_wf {m : List Host.Cell} (x : Nat) (v : Byte) (h : Memory.wf m) :
    Memory.wf (Memory.write m x v) := by
  obtain ⟨hr, hm⟩ := h
  unfold Memory.write
  split
  · rename_i hx
    split
    · exact ⟨Memory.remove_rising hr, fun c hc => hm c (Memory.mem_remove hc)⟩
    · rename_i hv
      refine ⟨Memory.insert_rising hr, fun c hc => ?_⟩
      rcases Memory.mem_insert hc with rfl | hc
      · exact ⟨hx, hv⟩
      · exact hm c hc
  · exact ⟨hr, hm⟩

theorem Memory.read_insert (x y : Nat) (v : Byte) (m : List Host.Cell)
    (h : m.Pairwise fun a b => a.1 < b.1) :
    Memory.read (Memory.insert x v m) y = if x = y then v else Memory.read m y := by
  induction m with
  | nil => simp [Memory.insert, Memory.read]
  | cons d rest ih =>
    obtain ⟨hd, hr⟩ := List.pairwise_cons.1 h
    obtain ⟨a, b⟩ := d
    simp only [Memory.insert]
    split
    · simp [Memory.read]
    · split
      · rename_i hx
        subst hx
        simp only [Memory.read]
        split <;> rfl
      · rename_i h1 h2
        simp only [Memory.read, ih hr]
        split
        · rename_i hay
          rw [if_neg (by omega)]
        · rfl

theorem Memory.read_above {m : List Host.Cell} {x : Nat} (h : ∀ c ∈ m, x < c.1) :
    Memory.read m x = poolUnwritten := by
  induction m with
  | nil => rfl
  | cons d rest ih =>
    have := h d (by simp)
    simp only [Memory.read]
    rw [if_neg (by omega)]
    exact ih fun c hc => h c (by simp [hc])

theorem Memory.read_remove (x y : Nat) (m : List Host.Cell) (h : m.Pairwise fun a b => a.1 < b.1) :
    Memory.read (Memory.remove x m) y = if x = y then poolUnwritten else Memory.read m y := by
  induction m with
  | nil => simp [Memory.remove, Memory.read]
  | cons d rest ih =>
    obtain ⟨hd, hr⟩ := List.pairwise_cons.1 h
    obtain ⟨a, b⟩ := d
    simp only [Memory.remove]
    split
    · rename_i hx
      subst hx
      simp only [Memory.read]
      split
      · rename_i hay
        subst hay
        exact Memory.read_above hd
      · rfl
    · rename_i hx
      simp only [Memory.read, ih hr]
      split
      · rename_i hay
        rw [if_neg (by omega)]
      · rfl

/-- A byte read after a write in the pool: the byte written at its address, the old byte elsewhere. -/
theorem Memory.read_write {m : List Host.Cell} (x y : Nat) (v : Byte) (h : Memory.wf m)
    (hx : x < poolSize) :
    Memory.read (Memory.write m x v) y = if x = y then v else Memory.read m y := by
  unfold Memory.write
  rw [if_pos hx]
  split
  · rename_i hv
    rw [hv]
    exact Memory.read_remove x y m h.1
  · exact Memory.read_insert x y v m h.1

/-- A write leaves every other address as it was, in any memory of rising addresses. -/
theorem Memory.read_write_other {m : List Host.Cell} {x y : Nat} (v : Byte) (h : Memory.wf m)
    (hxy : x ≠ y) : Memory.read (Memory.write m x v) y = Memory.read m y := by
  by_cases hx : x < poolSize
  · rw [Memory.read_write x y v h hx, if_neg hxy]
  · simp [Memory.write, hx]

end Sys2Proof.Machine
end

