-- ==== Sys2Proof/Laws/Rings.lean ====
section
/-! SUPPORT. What appends, removals, unit formation and unit delivery can do: they touch the pool, the
areas, the channels, the cells and the ports alone, and keep the pool canonical and every ring in range. -/

namespace Sys2Proof.Machine

open Sys2Proof

/-! ## One ring -/

/-- The area after an append (R103). -/
def Area.appended (a : Area) : Area :=
  { a with writePos := a.advance a.writePos, fill := a.fill + 1 }

/-- The area after a removal (R103). -/
def Area.removed (a : Area) : Area := { a with readPos := a.advance a.readPos, fill := a.fill - 1 }

theorem Area.advance_eq_mod {a : Area} {pos : Nat} (h : pos < a.size) :
    a.advance pos = (pos + 1) % a.size := by
  unfold Area.advance
  split
  · rename_i h1
    exact (Nat.mod_eq_of_lt h1).symm
  · have : pos + 1 = a.size := by omega
    rw [this, Nat.mod_self]

theorem Area.advance_lt {a : Area} {pos : Nat} (h : pos < a.size) : a.advance pos < a.size := by
  rw [Area.advance_eq_mod h]
  exact Nat.mod_lt _ (by omega)

/-- An append made with free space keeps the ring in range (R103). -/
theorem Area.ringInRange_appended {a : Area} (h : a.ringInRange) (hf : 0 < a.free) :
    a.appended.ringInRange := by
  rcases a with ⟨st, ho, f, n, r, w, fl, ch⟩
  cases f <;> cases n
  · obtain ⟨_, _, h3⟩ := h
    simp [Area.free, Area.size] at hf
  · exact h
  · exact h
  · rename_i f n
    obtain ⟨h1, h2, h3, h4, h5⟩ := h
    simp only [Area.size, Option.getD_some] at h3 h4 h5
    simp only [Area.free, Area.size, Option.getD_some] at hf
    refine ⟨h1, h2, h3, ?_, ?_⟩
    · simp only [Area.appended, Area.size, Option.getD_some]
      omega
    · have hw : w < 64 * n := by rw [h5]; exact Nat.mod_lt _ (by omega)
      simp only [Area.appended]
      rw [Area.advance_eq_mod (by simpa [Area.size] using hw)]
      simp only [Area.size, Option.getD_some]
      rw [h5, Nat.mod_add_mod, Nat.add_assoc]

/-- A removal made with bytes in the ring keeps it in range (R103). -/
theorem Area.ringInRange_removed {a : Area} (h : a.ringInRange) (hf : 0 < a.fill) :
    a.removed.ringInRange := by
  rcases a with ⟨st, ho, f, n, r, w, fl, ch⟩
  cases f <;> cases n
  · obtain ⟨_, _, h3⟩ := h
    simp_all
  · exact h
  · exact h
  · rename_i f n
    obtain ⟨h1, h2, h3, h4, h5⟩ := h
    simp only [Area.size, Option.getD_some] at h3 h4 h5
    have hf : 0 < fl := hf
    refine ⟨h1, h2, Area.advance_lt (by simpa [Area.size] using h3), ?_, ?_⟩
    · simp only [Area.removed, Area.size, Option.getD_some]
      omega
    · simp only [Area.removed]
      rw [Area.advance_eq_mod (by simpa [Area.size] using h3)]
      simp only [Area.size, Option.getD_some]
      rw [h5, Nat.mod_add_mod]
      congr 1
      omega

/-- Every byte offset of a ring in range lies in the pool (R101). -/
theorem Area.address_lt {a : Area} {o : Nat} (h : a.ringInRange) (ho : o < a.size) :
    a.address o < poolSize := by
  rcases a with ⟨st, hol, f, n, r, w, fl, ch⟩
  cases f <;> cases n
  · simp [Area.size] at ho
  · exact h.elim
  · exact h.elim
  · obtain ⟨h1, h2, -⟩ := h
    simp only [Area.size, Option.getD_some] at ho
    simp only [Area.address, Option.getD_some, poolSize]
    omega

/-! ## The relation -/

/-- What a step that moves bytes between the areas and the line may do to the state. -/
structure TransferStep (s t : State) : Prop where
  side : t = { s with
    pool := t.pool, areas := t.areas, channels := t.channels, cells := t.cells, ports := t.ports }
  events : EventsInRange s → EventsInRange t
  queues : ∀ c, (t.channel c).queue.length ≤ (s.channel c).queue.length
  gates : GatesShut s → GatesShut t
  pool : PoolCanonical s → PoolCanonical t
  rings : RingsInRange s → RingsInRange t
  pins : SamePins s t

theorem TransferStep.refl (s : State) : TransferStep s s :=
  ⟨rfl, id, fun _ => le_rfl, id, id, id, SamePins.refl s⟩

theorem TransferStep.trans {s t u : State} (h : TransferStep s t) (k : TransferStep t u) :
    TransferStep s u := by
  refine ⟨?_, k.events ∘ h.events, fun c => (k.queues c).trans (h.queues c), k.gates ∘ h.gates,
    k.pool ∘ h.pool, k.rings ∘ h.rings, h.pins.trans k.pins⟩
  rw [k.side, h.side]

theorem ChannelStep.toTransfer {s t : State} (h : ChannelStep s t) : TransferStep s t := by
  refine ⟨?_, h.events, h.queues, h.gates, fun hp => ?_, fun hr n => ?_, h.pins⟩
  · rw [h.side]
  · unfold PoolCanonical
    rw [h.pool]
    exact hp
  · rw [h.area n]
    exact hr n

theorem TransferStep.framer {s t : State} (h : TransferStep s t) : t.framer = s.framer := by rw [h.side]
theorem TransferStep.link {s t : State} (h : TransferStep s t) : t.link = s.link := by rw [h.side]
theorem TransferStep.service {s t : State} (h : TransferStep s t) : t.service = s.service := by
  rw [h.side]
theorem TransferStep.settings {s t : State} (h : TransferStep s t) : t.settings = s.settings := by
  rw [h.side]
theorem TransferStep.plan {s t : State} (h : TransferStep s t) : t.plan = s.plan := by rw [h.side]
theorem TransferStep.exchange {s t : State} (h : TransferStep s t) : t.exchange = s.exchange := by
  rw [h.side]
theorem TransferStep.pending {s t : State} (h : TransferStep s t) : t.pending = s.pending := by
  rw [h.side]

/-! ## Appends and removals -/

theorem ringAppend_area (s : State) (m n : AreaNo) (b : Byte) :
    (ringAppend s n b).area m = if m = n then (s.area n).appended else s.area m :=
  State.setArea_area ..

theorem ringRemove_area (s : State) (m n : AreaNo) :
    (ringRemove s n).area m = if m = n then (s.area n).removed else s.area m := State.setArea_area ..

theorem TransferStep.ringAppend {s : State} {n : AreaNo} (b : Byte) (hf : 0 < (s.area n).free) :
    TransferStep s (ringAppend s n b) := by
  refine ⟨rfl, id, fun _ => le_rfl, id, Memory.write_wf _ b, fun hr m => ?_, SamePins.of_ports rfl⟩
  rw [ringAppend_area]
  split
  · exact Area.ringInRange_appended (hr n) hf
  · exact hr m

theorem TransferStep.ringRemove {s : State} {n : AreaNo} (hf : 0 < (s.area n).fill) :
    TransferStep s (ringRemove s n) := by
  refine ⟨rfl, id, fun _ => le_rfl, id, id, fun hr m => ?_, SamePins.of_ports rfl⟩
  rw [ringRemove_area]
  split
  · exact Area.ringInRange_removed (hr n) hf
  · exact hr m

/-- Bytes that fit the free space are appended whole (R112). -/
theorem TransferStep.ringAppendAll {n : AreaNo} (l : List Byte) :
    ∀ {s : State}, l.length ≤ (s.area n).free → TransferStep s (ringAppendAll n l s) := by
  induction l with
  | nil => exact fun _ => TransferStep.refl _
  | cons b l ih =>
    intro s h
    rw [List.length_cons] at h
    refine (TransferStep.ringAppend b (by omega)).trans (ih ?_)
    rw [ringAppend_area, if_pos rfl]
    simp only [Area.free, Area.appended, Area.size] at h ⊢
    omega

/-- As many bytes as the fill level holds are removed (R112). -/
theorem TransferStep.ringTake {n : AreaNo} (k : Nat) :
    ∀ {s : State}, k ≤ (s.area n).fill → TransferStep s (ringTake n k s).2 := by
  induction k with
  | zero => exact fun _ => TransferStep.refl _
  | succ k ih =>
    intro s h
    refine (TransferStep.ringRemove (by omega)).trans (ih ?_)
    rw [ringRemove_area, if_pos rfl]
    simp only [Area.removed]
    omega

theorem ringTake_length (n : AreaNo) (k : Nat) : ∀ s, (ringTake n k s).1.length = k := by
  induction k with
  | zero => exact fun _ => rfl
  | succ k ih => exact fun s => congrArg Nat.succ (ih _)

/-! ## Units -/

theorem TransferStep.takeUnit (s : State) (c : ChannelNo) (a : AreaNo) (o : Order) :
    TransferStep s (takeUnit s c a o).2 := by
  have h : unitCount s c a o ≤ (s.area a).fill := by unfold unitCount; omega
  have hm := (TransferStep.ringTake (unitCount s c a o) h).trans
    (ChannelStep.moveHead _ c (unitCount s c a o)).toTransfer
  simp only [Machine.takeUnit]
  split
  · exact hm.trans (ChannelStep.endAndAdvance ..).toTransfer
  · exact hm

theorem TransferStep.formUnit (s : State) (c : ChannelNo) : TransferStep s (formUnit s c).2 := by
  unfold Machine.formUnit
  split
  · split
    · exact TransferStep.takeUnit ..
    · exact TransferStep.refl s
  · exact TransferStep.refl s

theorem TransferStep.formUnits (l : List ChannelNo) :
    ∀ (u : FrameUnits) (s : State), TransferStep s (formUnits l (u, s)).2 := by
  induction l with
  | nil => exact fun _ s => TransferStep.refl s
  | cons c l ih => exact fun u s => (TransferStep.formUnit s c).trans (ih _ _)

theorem TransferStep.deliverBytes (c : ChannelNo) (e : Bool) (fuel : Nat) :
    ∀ (data : List Byte) (s : State), TransferStep s (deliverBytes c e fuel data s) := by
  induction fuel with
  | zero => exact fun _ s => TransferStep.refl s
  | succ fuel ih =>
    intro data s
    simp only [Machine.deliverBytes]
    split
    · rename_i a o _ _ _ _
      split
      · exact ((TransferStep.ringAppendAll _ (by simp)).trans (ChannelStep.moveHead ..).toTransfer).trans
          (ChannelStep.endAndHalt ..).toTransfer
      · rename_i hs
        have hm := fun (k : Nat) => (TransferStep.ringAppendAll (data.take (min data.length o.remaining))
          (s := s) (n := a) (by rw [List.length_take]; omega)).trans (ChannelStep.moveHead _ c k).toTransfer
        split
        · split
          · exact (hm _).trans (ChannelStep.endAndAdvance ..).toTransfer
          · exact ((hm _).trans (ChannelStep.endAndAdvance ..).toTransfer).trans (ih _ _)
        · split
          · exact (hm _).trans (ChannelStep.endAndAdvance ..).toTransfer
          · exact hm _
    · split
      · exact TransferStep.refl s
      · exact (ChannelStep.raiseOwner ..).toTransfer

theorem TransferStep.deliverUnit (s : State) (c : ChannelNo) (bytes : List Byte) :
    TransferStep s (deliverUnit s c bytes) := by
  unfold Machine.deliverUnit
  split
  · exact TransferStep.refl s
  · simp only []
    split
    · exact (ChannelStep.raiseOwner ..).toTransfer
    · exact TransferStep.deliverBytes ..

theorem TransferStep.foldl {α : Type} {f : State → α → State} (h : ∀ s x, TransferStep s (f s x))
    (l : List α) : ∀ s, TransferStep s (l.foldl f s) := by
  induction l with
  | nil => exact TransferStep.refl
  | cons x l ih => exact fun s => (h s x).trans (ih _)

theorem TransferStep.deliverFrame (order : ChannelOrder) (payload : Payload) (s : State) :
    TransferStep s (deliverFrame order payload s) := by
  unfold Machine.deliverFrame
  split
  · refine TransferStep.foldl (fun t c => ?_) _ s
    unfold deliverChannel
    split
    · exact TransferStep.deliverUnit ..
    · exact TransferStep.refl t
  · exact TransferStep.refl s

end Sys2Proof.Machine
end

