-- ==== Sys2Proof/Laws/Keeps.lean ====
section
/-! SUPPORT. What the operations of the link controller, the framer, the service channel, the slot plan
and the plan exchange keep: the pool's form, the event sets, the gates, the rings, the counts and the pins of
the ports. -/

namespace Sys2Proof.Machine

open Sys2Proof

/-- What every operation keeps of the invariants over the shared structures and the counts. -/
structure Keeps (s t : State) : Prop where
  pool : PoolCanonical s → PoolCanonical t
  events : EventsInRange s → EventsInRange t
  gates : GatesShut s → GatesShut t
  rings : RingsInRange s → RingsInRange t
  counts : CountsInRange s → CountsInRange t
  pending : t.pending = s.pending
  pins : SamePins s t

theorem Keeps.refl (s : State) : Keeps s s := ⟨id, id, id, id, id, rfl, SamePins.refl s⟩

theorem Keeps.trans {s t u : State} (h : Keeps s t) (k : Keeps t u) : Keeps s u :=
  ⟨k.pool ∘ h.pool, k.events ∘ h.events, k.gates ∘ h.gates, k.rings ∘ h.rings, k.counts ∘ h.counts,
    k.pending.trans h.pending, h.pins.trans k.pins⟩

theorem TransferStep.keeps {s t : State} (h : TransferStep s t) : Keeps s t := by
  refine ⟨h.pool, h.events, h.gates, h.rings, fun hc => ?_, h.pending, h.pins⟩
  obtain ⟨h1, h2, h3, h4, h5⟩ := hc
  unfold CountsInRange
  rw [h.link, h.framer, h.service, h.exchange]
  exact ⟨h1, h2, h3, h4, fun c => (h.queues c).trans (h5 c)⟩

theorem ChannelStep.keeps {s t : State} (h : ChannelStep s t) : Keeps s t := h.toTransfer.keeps

/-- A step that leaves the shared structures and the ports, and keeps the four records of counts. -/
theorem Keeps.trunk {s t : State} (hp : t.pool = s.pool) (hv : t.ports = s.ports)
    (hk : t.cells = s.cells) (ha : t.areas = s.areas) (hc : t.channels = s.channels)
    (hq : t.pending = s.pending) (hl : s.link.inRange → t.link.inRange)
    (hf : s.framer.inRange → t.framer.inRange) (hs : s.service.inRange → t.service.inRange)
    (hx : s.exchange.inRange → t.exchange.inRange) : Keeps s t := by
  refine ⟨fun h => ?_, fun h p => ?_, fun h k => ?_, fun h n => ?_, fun h => ?_, hq,
    SamePins.of_ports hv⟩
  · unfold PoolCanonical
    rw [hp]
    exact h
  · have := h p
    unfold State.port at this ⊢
    rw [hv]
    exact this
  · have := h k
    unfold State.cell at this ⊢
    rw [hk]
    exact this
  · have := h n
    unfold State.area at this ⊢
    rw [ha]
    exact this
  · obtain ⟨h1, h2, h3, h4, h5⟩ := h
    refine ⟨hl h1, hf h2, hs h3, hx h4, fun c => ?_⟩
    have := h5 c
    unfold State.channel at this ⊢
    rw [hc]
    exact this

theorem Keeps.framer {s : State} {x : Framer} (h : s.framer.inRange → x.inRange) :
    Keeps s { s with framer := x } := Keeps.trunk rfl rfl rfl rfl rfl rfl id h id id

theorem Keeps.link {s : State} {x : Link} (h : s.link.inRange → x.inRange) :
    Keeps s { s with link := x } := Keeps.trunk rfl rfl rfl rfl rfl rfl h id id id

theorem Keeps.service {s : State} {x : Service} (h : s.service.inRange → x.inRange) :
    Keeps s { s with service := x } := Keeps.trunk rfl rfl rfl rfl rfl rfl id id h id

theorem Keeps.exchange {s : State} {x : Exchange} (h : s.exchange.inRange → x.inRange) :
    Keeps s { s with exchange := x } := Keeps.trunk rfl rfl rfl rfl rfl rfl id id id h

theorem Keeps.plan (s : State) (x : SlotPlan) : Keeps s { s with plan := x } :=
  Keeps.trunk rfl rfl rfl rfl rfl rfl id id id id

theorem Keeps.ite {s t u : State} {p : Prop} [Decidable p] (h : p → Keeps s t) (k : ¬p → Keeps s u) :
    Keeps s (if p then t else u) := by
  split
  · exact h ‹_›
  · exact k ‹_›

theorem atMost_none (n : Nat) : atMost n none := fun _ h => by cases h

theorem atMost_some {n m : Nat} (h : m ≤ n) : atMost n (some m) := fun _ hk => by
  cases hk
  exact h

/-- A count of at most `n` that goes up by one, but not past `n`. -/
theorem atMost_countUp (n : Nat) (x : Option Nat) : atMost n (x.map fun k => min n (k + 1)) := by
  cases x with
  | none => exact atMost_none n
  | some k => exact atMost_some (Nat.min_le_left ..)

/-! ## Ports and commands -/

theorem Keeps.setPort {s : State} {p : Port} {q : PortState}
    (h : (s.port p).eventsInRange → q.eventsInRange)
    (hp : q.transaction = (s.port p).transaction ∧ q.sdo = (s.port p).sdo := by exact ⟨rfl, rfl⟩) :
    Keeps s (s.setPort p q) := (ChannelStep.setPort h hp).keeps

theorem Keeps.complete (p : Port) (r : Reply) (s : State) : Keeps s (complete p r s) :=
  Keeps.trans (t := s.setPort p ((s.port p).finish r))
    (Keeps.setPort (PortState.eventsInRange_finish r))
    (Keeps.trunk rfl rfl rfl rfl rfl rfl id id id id)

/-- A command keeps what its action keeps, taken or not. -/
theorem Keeps.takeCommand {b : Bool} {p : Port} {act : State → Reply × State} {s t : State}
    (h : ∀ u, Keeps u (act u).2) (e : takeCommand b p act s = .next t) : Keeps s t := by
  unfold Machine.takeCommand at e
  split at e
  · cases e
    exact (h s).trans (Keeps.complete ..)
  · cases e
    exact Keeps.refl s

/-! ## The slot plan -/

theorem Keeps.lockEndClear (s : State) : Keeps s (lockEndClear s) := Keeps.plan ..
theorem Keeps.swapBanks (s : State) : Keeps s (swapBanks s) := Keeps.plan ..
theorem Keeps.setShadowEntry (s : State) (d : Direction) (i : SlotNo) (e : Option ChannelNo) :
    Keeps s (setShadowEntry s d i e) := Keeps.plan ..

theorem Keeps.closeInPlan (s : State) (c : ChannelNo) : Keeps s (closeInPlan s c) := by
  unfold Machine.closeInPlan
  exact Keeps.ite (fun _ => Keeps.plan ..) fun _ => Keeps.plan ..

/-- An area's record may change in its state, holder and channel. -/
theorem Keeps.setArea {s : State} {n : AreaNo} {x : Area} (h : (s.area n).ringInRange → x.ringInRange) :
    Keeps s (s.setArea n x) := by
  refine ⟨id, id, id, fun hr m => ?_, id, rfl, SamePins.of_ports rfl⟩
  rw [State.setArea_area]
  split
  · exact h (hr n)
  · exact hr m

theorem Keeps.unbindArea (s : State) (a : Option AreaNo) : Keeps s (unbindArea s a) := by
  cases a with
  | none => exact Keeps.refl s
  | some n => exact Keeps.setArea id

theorem Keeps.closeRecord (s : State) (c : ChannelNo) : Keeps s (closeRecord s c) := by
  unfold Machine.closeRecord
  refine Keeps.trans (((ChannelStep.leaveIfWaiting s c).keeps.trans (Keeps.unbindArea ..)).trans
    (Keeps.closeInPlan ..)) (ChannelStep.setChannel ?_).keeps
  exact Nat.zero_le _

theorem Keeps.closeChannelOp (s : State) (c : ChannelNo) : Keeps s (closeChannelOp s c) :=
  ((ChannelStep.leaveIfWaiting s c).keeps.trans (ChannelStep.abortOrders ..).keeps).trans
    (Keeps.closeRecord ..)

theorem Keeps.discardChannel (s : State) (c : ChannelNo) : Keeps s (discardChannel s c) := by
  unfold Machine.discardChannel
  split
  · rename_i p _
    refine Keeps.trans (t := s.setPort p _) (ChannelStep.setPort ?_).keeps (Keeps.closeRecord ..)
    exact id
  · exact Keeps.closeRecord ..

/-! ## The plan exchange -/

/-- The origin queue replaced by one that holds at most 4 where the old one does. -/
theorem Keeps.origin {s : State} {l : List OriginEntry}
    (h : s.service.origin.length ≤ 4 → l.length ≤ 4) :
    Keeps s { s with service := { s.service with origin := l } } :=
  Keeps.service fun ⟨h1, h2⟩ => ⟨h h1, h2⟩

/-- Taking out the youngest entry never lengthens a list. -/
theorem eraseYoungest_length_le {α : Type} (f : α → Bool) (l : List α) :
    (eraseYoungest f l).length ≤ l.length := by
  simpa [eraseYoungest] using List.length_eraseP_le (p := f) (l := l.reverse)

/-- The youngest entry that `f` names, when no later one is named, is the one taken out. -/
theorem eraseYoungest_append {α : Type} {f : α → Bool} (before after : List α) {e : α} (he : f e = true)
    (h : ∀ x ∈ after, f x = false) : eraseYoungest f (before ++ e :: after) = before ++ after := by
  have h' : ∀ x ∈ after.reverse, ¬ f x = true := fun x hx => by simp [h x (List.mem_reverse.mp hx)]
  simp [eraseYoungest, List.eraseP_append_right _ h', he]

theorem Keeps.removeOffer (s : State) : Keeps s (removeOffer s) :=
  Keeps.origin (eraseYoungest_length_le ..).trans

theorem Keeps.appendPlan (s : State) (m : Message) : Keeps s (appendPlan s m) := by
  unfold Machine.appendPlan
  split
  · exact Keeps.origin fun _ => by simpa using by omega
  · exact Keeps.refl s

theorem Keeps.writeOutcome (s : State) (k : PlanOutcomeKind) (r : Option RefusalReason)
    (q : Option Requester) : Keeps s (writeOutcome s k r q) :=
  (Keeps.exchange (s := s) (x := { s.exchange with last := some ⟨k, r, q, s.framer.cycle⟩ }) id).trans
    (ChannelStep.raiseAll ..).keeps

theorem Keeps.endExchange (s : State) (k : PlanOutcomeKind) (r : Option RefusalReason) (b : Bool) :
    Keeps s (endExchange s k r b) := by
  have h (u : State) : Keeps u { u with exchange := u.exchange.toIdle } :=
    Keeps.exchange fun h => ⟨Nat.zero_le _, h.2⟩
  unfold Machine.endExchange
  refine Keeps.trans ?_ (Keeps.writeOutcome ..)
  split <;> split
  · exact (Keeps.removeOffer s).trans (h _)
  · exact h s
  · exact ((Keeps.removeOffer s).trans (h _)).trans (Keeps.lockEndClear _)
  · exact (h s).trans (Keeps.lockEndClear _)

theorem Keeps.enterScheduled (s : State) (d : Side) (q : Option Requester) (t : Option Byte) :
    Keeps s (enterScheduled s d q t) :=
  (Keeps.exchange (s := s) (x := { s.exchange with
    state := .scheduled, side := some d, requester := q, target := t }) id).trans
    (ChannelStep.raiseAll ..).keeps

theorem Keeps.sendWithdraw (s : State) : Keeps s (sendWithdraw s) :=
  Keeps.ite (fun _ => Keeps.refl s) fun _ => Keeps.appendPlan ..

theorem Keeps.answerDisplaced (s : State) (a : Answer) : Keeps s (answerDisplaced s a) :=
  Keeps.ite (fun _ => Keeps.endExchange ..) fun _ => Keeps.refl s

theorem Keeps.writeAnswer (s : State) (m : Message) (a : AnswerSource) : Keeps s (writeAnswer s m a) := by
  have h : Keeps s { s with service := { s.service with answer := some ⟨m, a⟩ } } := Keeps.service id
  unfold Machine.writeAnswer
  simp only []
  split
  · exact h.trans (Keeps.answerDisplaced ..)
  · exact h

theorem Keeps.refuseOffer (s : State) (r : RefusalReason) : Keeps s (refuseOffer s r) :=
  Keeps.writeAnswer ..

theorem Keeps.offerInIdle (s : State) (d : Word) : Keeps s (offerInIdle s d) := by
  unfold Machine.offerInIdle
  refine Keeps.ite (fun _ => Keeps.refuseOffer ..) fun _ => ?_
  refine Keeps.trans (Keeps.exchange (x := { s.exchange with
    answer := some (answerDigest s.plan.shadowTables), peerOffer := some d }) id) ?_
  exact Keeps.ite (fun _ => (Keeps.writeAnswer ..).trans (Keeps.enterScheduled ..))
    fun _ => Keeps.refuseOffer ..

theorem Keeps.offerReceived (s : State) (d : Word) : Keeps s (offerReceived s d) := by
  unfold Machine.offerReceived
  split
  · exact Keeps.offerInIdle ..
  · exact Keeps.refuseOffer ..
  · exact Keeps.ite (fun _ => Keeps.refuseOffer ..)
      fun _ => (Keeps.endExchange ..).trans (Keeps.offerInIdle ..)

theorem Keeps.agreeReceived (s : State) (a : Word) : Keeps s (agreeReceived s a) :=
  Keeps.ite (fun _ => Keeps.ite (fun _ => Keeps.enterScheduled ..)
    fun _ => (Keeps.sendWithdraw s).trans (Keeps.endExchange ..)) fun _ => Keeps.refl s

theorem Keeps.planReceived (s : State) (m : Message) : Keeps s (planReceived s m) :=
  Keeps.ite (fun _ => Keeps.offerReceived ..) fun _ =>
    Keeps.ite (fun _ => Keeps.agreeReceived ..) fun _ =>
      Keeps.ite (fun _ => Keeps.ite (fun _ => Keeps.endExchange ..) fun _ => Keeps.refl s) fun _ =>
        Keeps.ite (fun _ => Keeps.endExchange ..) fun _ => Keeps.refl s

theorem Keeps.agreeEntered (s : State) : Keeps s (agreeEntered s) :=
  Keeps.ite (fun _ => Keeps.exchange id) fun _ => Keeps.refl s

theorem Keeps.planTimeoutOp (s : State) : Keeps s (planTimeoutOp s) :=
  (Keeps.sendWithdraw s).trans (Keeps.endExchange ..)

theorem Keeps.planSwapOp (order : ChannelOrder) (s : State) : Keeps s (planSwapOp order s) :=
  ((Keeps.swapBanks s).trans (ChannelStep.checkAreas ..).keeps).trans (Keeps.endExchange ..)

theorem Keeps.bankAdoptionOp (order : ChannelOrder) (s : State) : Keeps s (bankAdoptionOp order s) := by
  unfold Machine.bankAdoptionOp
  refine Keeps.trans ?_ (Keeps.exchange id)
  refine Keeps.trans ?_ (Keeps.writeOutcome ..)
  refine Keeps.trans ?_ (ChannelStep.checkAreas ..).keeps
  exact Keeps.ite (fun _ => Keeps.refl s) fun _ => Keeps.swapBanks s

theorem Keeps.confirmMismatch (s : State) (b : Bank) : Keeps s (confirmMismatch s b) := by
  have h : Keeps s { s with exchange := { s.exchange with mismatch := true } } := Keeps.exchange id
  unfold Machine.confirmMismatch
  have k (u : State) : Keeps u { u with exchange := { u.exchange with adopt := some b } } :=
    Keeps.exchange id
  simp only []
  split <;> split
  · exact (h.trans (Keeps.endExchange ..)).trans (k _)
  · exact h.trans (Keeps.endExchange ..)
  · exact (h.trans (Keeps.writeOutcome ..)).trans (k _)
  · exact h.trans (Keeps.writeOutcome ..)

theorem Keeps.compareBank (s : State) (b r : Bank) : Keeps s (compareBank s b r) := by
  unfold Machine.compareBank
  refine Keeps.ite (fun _ => Keeps.exchange fun h => ⟨h.1, Nat.zero_le _⟩) fun _ => ?_
  refine Keeps.trans (Keeps.exchange (x := { s.exchange with
    mismatchRun := min 2 (s.exchange.mismatchRun + 1) }) fun h => ⟨h.1, Nat.min_le_left ..⟩) ?_
  exact Keeps.ite (fun _ => Keeps.confirmMismatch ..) fun _ => Keeps.refl _

theorem Keeps.clearMismatchRun (s : State) : Keeps s (clearMismatchRun s) :=
  Keeps.exchange fun h => ⟨h.1, Nat.zero_le _⟩

theorem Keeps.exchangeDown (s : State) : Keeps s (exchangeDown s) := by
  have h (u : State) : Keeps u { u with exchange :=
      { u.exchange with mismatch := false, adopt := none, mismatchRun := 0 } } :=
    Keeps.exchange fun h => ⟨h.1, Nat.zero_le _⟩
  unfold Machine.exchangeDown
  simp only []
  split
  · exact (Keeps.endExchange ..).trans (h _)
  · exact h s

/-! ## The service channel -/

theorem Keeps.setLoops (s : State) (v : Vector Bool 24) : Keeps s (setLoops s v) := Keeps.service id

theorem Keeps.setBadStart {s : State} {n : Option Nat} (h : atMost 4 n) : Keeps s (setBadStart s n) :=
  Keeps.service fun ⟨h1, h2, h3, _, h5⟩ => ⟨h1, h2, h3, h, h5⟩

theorem Keeps.setBadChecks (s : State) (b : Bool) : Keeps s (setBadChecks s b) := Keeps.framer id
theorem Keeps.setBlind (s : State) (b : Bool) : Keeps s (setBlind s b) := Keeps.framer id

theorem Keeps.clearTests (s : State) : Keeps s (clearTests s) :=
  (((Keeps.setLoops s _).trans (Keeps.setBadStart (atMost_none 4))).trans
    (Keeps.setBadChecks ..)).trans (Keeps.setBlind ..)

theorem Keeps.placeInSlot (s : State) (m : Message) : Keeps s (placeInSlot s m) := Keeps.service id

theorem Keeps.beginBadStart (s : State) : Keeps s (beginBadStart s) :=
  Keeps.ite (fun _ => Keeps.refl s) fun _ =>
    Keeps.setBadStart (atMost_some (Nat.zero_le _))

theorem Keeps.moveAnswer (s : State) (a : Answer) : Keeps s (moveAnswer s a) := by
  have h : Keeps s { s with service := { s.service with answer := none } } := Keeps.service id
  unfold Machine.moveAnswer
  refine h.trans ?_
  split
  · exact Keeps.ite (fun _ => (Keeps.agreeEntered _).trans (Keeps.placeInSlot ..))
      fun _ => Keeps.placeInSlot ..
  · exact (Keeps.placeInSlot ..).trans (Keeps.beginBadStart _)
  · exact Keeps.placeInSlot ..

theorem awaitAdd_length {l : List Message} (m : Message) (h : l.length ≤ 4) :
    (awaitAdd l m).length ≤ 4 := by
  unfold awaitAdd
  split <;> simp <;> omega

/-- The oldest of the origin queue moves out; the queue's rest is no longer than it was. -/
theorem Keeps.moveOrigin {s : State} (e : OriginEntry) {rest : List OriginEntry}
    (h : rest.length ≤ s.service.origin.length) : Keeps s (moveOrigin s e rest) := by
  have h1 : Keeps s (Machine.placeInSlot { s with service := { s.service with origin := rest } } e.message) :=
    Keeps.trans (t := { s with service := { s.service with origin := rest } })
      (Keeps.service fun ⟨a, b⟩ => ⟨h.trans a, b⟩) (Keeps.placeInSlot ..)
  unfold Machine.moveOrigin
  exact Keeps.ite (fun _ => h1.trans (Keeps.service fun ⟨a, b, c⟩ => ⟨a, awaitAdd_length _ b, c⟩))
    fun _ => h1

theorem Keeps.chooseMessage (s : State) : Keeps s (chooseMessage s) := by
  unfold Machine.chooseMessage
  refine Keeps.ite (fun _ => Keeps.refl s) fun _ => ?_
  split
  · exact Keeps.moveAnswer ..
  · split
    · rename_i h
      exact Keeps.moveOrigin _ (by simp [h])
    · exact Keeps.refl s

theorem Keeps.positionBoundary (s : State) : Keeps s (positionBoundary s) :=
  (Keeps.chooseMessage s).trans (Keeps.service id)

theorem Keeps.addReport (s : State) (r : Report) : Keeps s (addReport s r) := by
  refine Keeps.trans (Keeps.service fun ⟨h1, h2, h3, h4⟩ => ?_) (ChannelStep.raise ..).keeps
  split
  · exact ⟨h1, h2, by simpa using by omega, h4⟩
  · exact ⟨h1, h2, h3, h4⟩

theorem Keeps.clearReports (s : State) : Keeps s (clearReports s) :=
  Keeps.service fun ⟨h1, h2, _, h4⟩ => ⟨h1, h2, Nat.zero_le _, h4⟩

theorem Keeps.declineAwait (s : State) (a : Word) : Keeps s (declineAwait s a) :=
  Keeps.service fun ⟨h1, h2, h3⟩ => ⟨h1, (List.length_eraseP_le).trans h2, h3⟩

theorem Keeps.maintenanceAction (s : State) (m : Message) : Keeps s (maintenanceAction s m) := by
  unfold Machine.maintenanceAction
  refine Keeps.ite (fun _ => Keeps.setLoops ..) fun _ => Keeps.ite (fun _ => ?_) fun _ =>
    Keeps.ite (fun _ => Keeps.setBlind ..) fun _ =>
      Keeps.ite (fun _ => Keeps.clearTests s) fun _ => Keeps.refl s
  split
  · exact Keeps.setLoops ..
  · exact Keeps.refl s

theorem Keeps.autoOrder (s : State) (m : Message) : Keeps s (autoOrder s m).2 := by
  unfold Machine.autoOrder
  split
  · exact Keeps.writeAnswer ..
  · split
    · exact Keeps.refl s
    · split
      · exact Keeps.declineAwait ..
      · split
        · exact (Keeps.maintenanceAction ..).trans (Keeps.writeAnswer ..)
        · exact Keeps.writeAnswer ..

theorem Keeps.autoValue (s : State) (m : Message) : Keeps s (autoValue s m).2 := by
  unfold Machine.autoValue
  split
  · exact Keeps.writeAnswer ..
  · split
    · split
      · exact (ChannelStep.peerWrite ..).keeps.trans (Keeps.writeAnswer ..)
      · exact Keeps.writeAnswer ..
    · exact Keeps.writeAnswer ..

theorem Keeps.dispose (s : State) (m : Message) : Keeps s (dispose s m).2 := by
  unfold Machine.dispose
  split
  · exact Keeps.planReceived ..
  · split
    · exact Keeps.service fun ⟨h1, h2, h3⟩ => ⟨h1, List.length_erase_le.trans h2, h3⟩
    · split
      · split
        · exact Keeps.autoOrder ..
        · exact Keeps.autoValue ..
      · exact Keeps.ite (fun _ => Keeps.declineAwait ..) fun _ => Keeps.refl s

theorem nextLook_inRange (l : Option LookRun) (m : Message) :
    1 ≤ (nextLook l m).length ∧ (nextLook l m).length ≤ 3 := by
  unfold nextLook
  split
  · split
    · exact ⟨by simp, Nat.min_le_left ..⟩
    · exact ⟨le_rfl, show 1 ≤ 3 by omega⟩
  · exact ⟨le_rfl, show 1 ≤ 3 by omega⟩

theorem Keeps.lastConfirmed (s : State) (m : Message) :
    Keeps s { s with service := { s.service with lastConfirmed := some m } } := Keeps.service id

theorem Keeps.positionReceived (s : State) (p : Position) (c : Byte) (m : Message) :
    Keeps s (positionReceived s p c m) := by
  unfold Machine.positionReceived
  refine Keeps.trans (Keeps.service (x := { s.service with
      previous := some m, look := some (nextLook s.service.look m) })
    fun ⟨h1, h2, h3, h4, _⟩ => ⟨h1, h2, h3, h4, fun r hr => by
      cases hr
      exact nextLook_inRange _ _⟩) ?_
  refine Keeps.ite (fun _ => ?_) fun _ => Keeps.ite (fun _ => Keeps.addReport ..) fun _ => Keeps.refl _
  refine Keeps.trans (Keeps.lastConfirmed _ m) (Keeps.trans (Keeps.dispose _ m) ?_)
  exact Keeps.ite (fun _ => Keeps.addReport ..) fun _ =>
    Keeps.ite (fun _ => Keeps.addReport ..) fun _ => Keeps.refl _

theorem Keeps.breakLook (s : State) : Keeps s (breakLook s) :=
  Keeps.service fun ⟨h1, h2, h3, h4, _⟩ => ⟨h1, h2, h3, h4, fun r hr => by cases hr⟩

theorem Keeps.serviceDown (s : State) : Keeps s (serviceDown s) :=
  Keeps.service fun ⟨_, _, h3, _, _⟩ =>
    ⟨Nat.zero_le _, Nat.zero_le _, h3, atMost_none 4, fun _ h => absurd h (by simp)⟩

/-! ## The link controller -/

theorem Keeps.setLine (s : State) (x : Line) : Keeps s (setLine s x) := Keeps.framer id

theorem Keeps.beginTry (s : State) : Keeps s (beginTry s) := by
  unfold Machine.beginTry
  refine Keeps.trans ?_ (Keeps.setLine ..)
  exact Keeps.link id

theorem Keeps.tryIfReady (s : State) : Keeps s (tryIfReady s) :=
  Keeps.ite (fun _ => Keeps.beginTry s) fun _ => Keeps.refl s

theorem Keeps.enterAnswering (s : State) : Keeps s (enterAnswering s) := by
  unfold Machine.enterAnswering
  refine Keeps.trans ?_ (Keeps.setLine ..)
  exact Keeps.link id

theorem Keeps.answerIfWilling (s : State) : Keeps s (answerIfWilling s) :=
  Keeps.ite (fun _ => Keeps.enterAnswering s) fun _ => Keeps.refl s

theorem Keeps.enterAligning (s : State) : Keeps s (enterAligning s) :=
  Keeps.trunk rfl rfl rfl rfl rfl rfl id
    (fun h => ⟨Nat.zero_le _, Nat.zero_le _, h.2.2.1, Nat.zero_le _⟩) id id

theorem Keeps.enterUp (s : State) : Keeps s (enterUp s) := by
  unfold Machine.enterUp
  refine Keeps.trans ?_ (ChannelStep.raiseAll ..).keeps
  exact Keeps.link fun h => ⟨Nat.zero_le _, atMost_none 50, h.2.2⟩

theorem Keeps.enterResync (s : State) : Keeps s (enterResync s) := by
  unfold Machine.enterResync
  refine Keeps.trans ?_ (Keeps.clearMismatchRun _)
  refine Keeps.trans ?_ (Keeps.breakLook _)
  exact Keeps.trunk rfl rfl rfl rfl rfl rfl
    (fun h => ⟨h.1, h.2.1, atMost_some (Nat.zero_le _), h.2.2.2⟩)
    (fun h => ⟨h.1, h.2.1, Nat.zero_le _, h.2.2.2⟩) id id

theorem Keeps.enterLeaving (s : State) : Keeps s (enterLeaving s) := by
  unfold Machine.enterLeaving
  refine Keeps.trans ?_ (Keeps.clearMismatchRun _)
  exact Keeps.link fun h => ⟨h.1, atMost_none 50, h.2.2.1, atMost_some (Nat.zero_le _)⟩

theorem Keeps.leaveIfUnwanted (s : State) : Keeps s (leaveIfUnwanted s) :=
  Keeps.ite (fun _ => Keeps.enterLeaving s) fun _ => Keeps.refl s

theorem Keeps.reviewClaims (s : State) : Keeps s (reviewClaims s) := by
  unfold Machine.reviewClaims
  split
  · exact Keeps.ite (fun _ => Keeps.answerIfWilling s) fun _ => Keeps.tryIfReady s
  · exact Keeps.leaveIfUnwanted s
  · exact Keeps.leaveIfUnwanted s
  · exact Keeps.refl s

theorem Keeps.announceDown (order : ChannelOrder) (s : State) : Keeps s (announceDown order s) := by
  unfold Machine.announceDown
  refine Keeps.trans ?_ (ChannelStep.channelsDown ..).keeps
  refine Keeps.trans ?_ (Keeps.exchangeDown _)
  refine Keeps.trans ?_ (Keeps.serviceDown _)
  refine Keeps.trunk rfl rfl rfl rfl rfl rfl (fun h => ?_) (fun h => ?_) id id
  · exact ⟨h.1, atMost_none 50, atMost_none 40, atMost_none 4⟩
  · exact ⟨Nat.zero_le _, Nat.zero_le _, Nat.zero_le _, Nat.zero_le _⟩

theorem Keeps.enterDown (order : ChannelOrder) (s : State) : Keeps s (enterDown order s) := by
  unfold Machine.enterDown
  refine (Keeps.announceDown order s).trans ?_
  exact Keeps.ite (fun _ => Keeps.ite (fun _ => Keeps.enterAnswering _)
    fun _ => (ChannelStep.raiseAll ..).keeps) fun _ => Keeps.refl _

theorem Keeps.failTry (order : ChannelOrder) (r : Option FailureReason) (s : State) :
    Keeps s (failTry order r s) := by
  have h (x : FailureReason) : Keeps s { s with link :=
      { s.link with tryCount := min 5 (s.link.tryCount + 1), lastFailure := x } } :=
    Keeps.link fun h => ⟨Nat.min_le_left .., h.2⟩
  unfold Machine.failTry
  simp only []
  split
  · exact ((h _).trans (Keeps.enterDown ..)).trans (ChannelStep.raiseAll ..).keeps
  · exact (h _).trans (Keeps.enterDown ..)

theorem Keeps.roleClash (order : ChannelOrder) (s : State) : Keeps s (roleClash order s) :=
  Keeps.trans (Keeps.trans (t := { s with link := { s.link with tryCount := 5, lastFailure := .roleClash } })
    (Keeps.link fun h => ⟨le_rfl, h.2⟩) (Keeps.enterDown order _)) (ChannelStep.raiseAll ..).keeps

theorem Keeps.resyncLost (order : ChannelOrder) (s : State) : Keeps s (resyncLost order s) :=
  Keeps.trans (Keeps.trans (t := { s with link := { s.link with lastFailure := .lost } })
    (Keeps.link id) (Keeps.enterDown order _)) (ChannelStep.raiseAll ..).keeps

theorem Keeps.leavingDone (order : ChannelOrder) (s : State) : Keeps s (leavingDone order s) :=
  (Keeps.enterDown order s).trans (ChannelStep.raiseAll ..).keeps

theorem Keeps.removeClaim (p : Port) (s : State) : Keeps s (removeClaim p s) := by
  unfold Machine.removeClaim
  refine Keeps.trans ?_ (Keeps.reviewClaims _)
  exact Keeps.link id

end Sys2Proof.Machine
end

