-- ==== Sys2Proof/Laws/Framer.lean ====
section
/-! SUPPORT. What the framer's operations keep. -/

namespace Sys2Proof.Machine

open Sys2Proof

/-! ## The outbound frame -/

theorem Keeps.beginPosition (s : State) : Keeps s (beginPosition s) := by
  have h (u : State) (m : Message) :
      Keeps u { u with framer := { u.framer with positionMessage := m } } := Keeps.framer id
  unfold Machine.beginPosition
  simp only []
  split
  · exact (Keeps.positionBoundary s).trans (h _ _)
  · exact h s _

theorem Keeps.composeStatus (s : State) : Keeps s (composeStatus s) := Keeps.framer id

theorem Keeps.statusSent (s : State) : Keeps s (statusSent s) := by
  have h (u : State) : Keeps u { u with framer := { u.framer with farErrorToSend := false } } :=
    Keeps.framer id
  have k (u : State) : Keeps u { u with link :=
      { u.link with leavingCount := u.link.leavingCount.map fun n => min 4 (n + 1) } } :=
    Keeps.link fun h => ⟨h.1, h.2.1, h.2.2.1, atMost_countUp 4 _⟩
  unfold Machine.statusSent
  refine Keeps.trans (t := if flagSet s.framer.statusFlags .farError then
      { s with framer := { s.framer with farErrorToSend := false } } else s)
    (Keeps.ite (fun _ => h s) fun _ => Keeps.refl s) ?_
  exact Keeps.ite (fun _ => k _) fun _ => Keeps.refl _

theorem Keeps.beginService (f : FrameNo) (s : State) : Keeps s (beginService f s) := by
  have h (u : State) : Keeps u (beginOutCheck u) := Keeps.framer id
  unfold Machine.beginService
  split
  · split
    · exact (h s).trans (Keeps.beginPosition _)
    · exact Keeps.beginPosition s
  · split
    · exact Keeps.composeStatus s
    · split
      · exact Keeps.ite (fun _ => Keeps.statusSent s) fun _ => Keeps.refl s
      · split
        · exact Keeps.beginPosition s
        · exact Keeps.ite (fun _ => Keeps.framer id) fun _ => Keeps.refl s

theorem Keeps.sendFrame (f : FrameNo) (payload : Payload) (s : State) :
    Keeps s (sendFrame f payload s) := Keeps.framer id

theorem Keeps.beginFrame (order : ChannelOrder) (f : FrameNo) (s : State) :
    Keeps s (beginFrame order f s) := by
  have h := ((Keeps.beginService f s).trans (ChannelStep.updateLoopPauses _).keeps).trans
    (TransferStep.formUnits (channelOrder order) (Vector.replicate 8 []) _).keeps
  unfold Machine.beginFrame
  simp only []
  split
  · exact h.trans (Keeps.sendFrame ..)
  · exact h

/-! ## The cycle start -/

theorem Keeps.countCycleStart (s : State) : Keeps s (countCycleStart s) := by
  refine Keeps.trunk rfl rfl rfl rfl rfl rfl (fun h => ⟨h.1, atMost_countUp 50 _, h.2.2⟩) id
    (fun h => ⟨h.1, h.2.1, h.2.2.1, atMost_countUp 4 _, h.2.2.2.2⟩) fun h => ⟨?_, h.2⟩
  simp only [Machine.countCycleStart]
  split
  · exact Nat.min_le_left ..
  · exact h.1

theorem Keeps.openCycle (s : State) : Keeps s (openCycle s) := by
  unfold Machine.openCycle
  split
  · exact Keeps.refl s
  · refine Keeps.trans ?_ (Keeps.countCycleStart _)
    exact Keeps.framer id

theorem Keeps.whenDue {s t : State} {due : State → Bool} {act : State → State}
    (h : ∀ u, Keeps u (act u)) (k : Keeps s t) : Keeps s (whenDue due act t) := by
  unfold Machine.whenDue
  split
  · exact k.trans (h t)
  · exact k

theorem Keeps.badStartExpires (s : State) : Keeps s (badStartExpires s) :=
  (Keeps.setBadStart (atMost_none 4)).trans (Keeps.setBadChecks ..)

theorem Keeps.runDue (order : ChannelOrder) (s : State) : Keeps s (runDue order s) :=
  Keeps.whenDue (Keeps.bankAdoptionOp order) <| Keeps.whenDue (Keeps.planSwapOp order) <|
    Keeps.whenDue Keeps.planTimeoutOp <| Keeps.whenDue Keeps.badStartExpires <|
      Keeps.whenDue (Keeps.leavingDone order) <| Keeps.whenDue (Keeps.failTry order _) <| Keeps.refl s

theorem Keeps.cycleStep {due : State → Bool} {act : State → State} (h : ∀ u, Keeps u (act u))
    (s : State) : Keeps s (cycleStep due act s) := by
  unfold Machine.cycleStep
  split
  · exact (Keeps.openCycle s).trans (h _)
  · exact Keeps.refl s

theorem Keeps.setOutFrame (f : FrameNo) (s : State) : Keeps s (setOutFrame f s) := Keeps.framer id

theorem Keeps.startFrame (order : ChannelOrder) (s : State) : Keeps s (startFrame order s) := by
  have h : Keeps s (Machine.setOutFrame (nextFrame s.framer.outFrame)
      (if (nextFrame s.framer.outFrame).val = 0 then Machine.runDue order (Machine.openCycle s) else s)) := by
    refine Keeps.trans ?_ (Keeps.setOutFrame ..)
    split
    · exact (Keeps.openCycle s).trans (Keeps.runDue ..)
    · exact Keeps.refl s
  unfold Machine.startFrame
  simp only []
  generalize Machine.setOutFrame _ _ = t at h ⊢
  split
  · exact h.trans (Keeps.beginFrame ..)
  · exact h

/-! ## The received frame -/

theorem Keeps.openReceived (s : State) : Keeps s (openReceived s) :=
  Keeps.trunk rfl rfl rfl rfl rfl rfl id id id id

theorem Keeps.judgeMarker (good : Bool) (s : State) : Keeps s (judgeMarker good s) := by
  refine Keeps.framer fun h => ?_
  refine ⟨?_, ?_, h.2.2⟩
  · simp only []
    split
    · exact Nat.zero_le _
    · exact Nat.min_le_left ..
  · simp only []
    split
    · exact Nat.min_le_left ..
    · exact Nat.zero_le _

theorem Keeps.advanceDue (s : State) : Keeps s (advanceDue s) := Keeps.framer id

theorem Keeps.gatherFrame (payload : Payload) (service : Byte) (s : State) :
    Keeps s (gatherFrame payload service s) := Keeps.framer id

theorem Keeps.handOver (order : ChannelOrder) (payload : Payload) (s : State) :
    Keeps s (handOver order payload s) := by
  unfold Machine.handOver
  split
  · refine Keeps.trans ?_ (TransferStep.deliverFrame ..).keeps
    exact Keeps.framer id
  · exact Keeps.refl s

theorem Keeps.adoptProvisionally (service : Byte) (s : State) :
    Keeps s (adoptProvisionally service s) :=
  Keeps.ite (fun _ => Keeps.framer id) fun _ => Keeps.refl s

/-! ## The decision -/

theorem Keeps.rejectCycle (s : State) : Keeps s (rejectCycle s) := by
  unfold Machine.rejectCycle
  exact (Keeps.breakLook s).trans (Keeps.ite (fun _ => Keeps.framer id) fun _ => Keeps.refl _)

theorem Keeps.storeFlags (flags : Byte) (s : State) : Keeps s (storeFlags flags s) := Keeps.framer id

theorem Keeps.adoptNumber (v : Byte) (s : State) : Keeps s (adoptNumber v s) := Keeps.framer id

theorem Keeps.compareNumber (v own : Byte) (s : State) : Keeps s (compareNumber v own s) := by
  have h (n : Nat) (hn : n ≤ 1) : Keeps s { s with framer := { s.framer with disagreeRun := n } } :=
    Keeps.framer fun h => ⟨h.1, h.2.1, hn, h.2.2.2⟩
  unfold Machine.compareNumber
  split
  · split
    · exact h 0 (Nat.zero_le _)
    · split
      · exact h 1 le_rfl
      · exact (h 0 (Nat.zero_le _)).trans (Keeps.adoptNumber ..)
  · exact Keeps.refl s

theorem Keeps.passBank (flags : Byte) (b : Bank) (s : State) : Keeps s (passBank flags b s) :=
  Keeps.ite (fun _ => Keeps.compareBank ..) fun _ => Keeps.refl s

theorem Keeps.enterSynced (v : Byte) (s : State) : Keeps s (enterSynced v s) := by
  have h : Keeps s { s with link :=
      { s.link with state := .synced, alignTimer := false, readyWait := some 0 } } :=
    Keeps.link fun h => ⟨h.1, atMost_some (Nat.zero_le _), h.2.2⟩
  unfold Machine.enterSynced
  simp only []
  split
  · exact h.trans (Keeps.adoptNumber ..)
  · exact h

theorem Keeps.applyReady (flags : Byte) (s : State) : Keeps s (applyReady flags s) :=
  Keeps.ite (fun _ => Keeps.enterUp s) fun _ => Keeps.refl s

theorem Keeps.applyLeaving (flags : Byte) (s : State) : Keeps s (applyLeaving flags s) :=
  Keeps.ite (fun _ => Keeps.ite (fun _ => Keeps.enterLeaving s) fun _ => Keeps.leaveIfUnwanted s)
    fun _ => Keeps.refl s

theorem Keeps.linkAccepts (order : ChannelOrder) (flags v : Byte) (s : State) :
    Keeps s (linkAccepts order flags v s) := by
  have h : Keeps s { s with link := { s.link with
      peerDemand := flagSet flags .demand, peerReady := flagSet flags .ready } } := Keeps.link id
  unfold Machine.linkAccepts
  refine h.trans (Keeps.ite (fun _ => Keeps.roleClash ..) fun _ => ?_)
  refine Keeps.trans ?_ (Keeps.applyLeaving ..)
  refine Keeps.trans ?_ (Keeps.applyReady ..)
  exact Keeps.ite (fun _ => Keeps.enterSynced ..) fun _ => Keeps.refl _

theorem Keeps.acceptCycle (order : ChannelOrder) (p : PendingCheck) (s : State) :
    Keeps s (acceptCycle order p s) := by
  have h := (((Keeps.storeFlags p.cycle.flags s).trans
    (Keeps.compareNumber p.cycle.number p.localCycle _)).trans
    (Keeps.passBank p.cycle.flags p.cycle.reference _)).trans
    (Keeps.linkAccepts order p.cycle.flags p.cycle.number _)
  unfold Machine.acceptCycle
  simp only []
  split
  · exact (h.trans (Keeps.positionReceived ..)).trans (Keeps.positionReceived ..)
  · exact h

theorem Keeps.decideCycle (order : ChannelOrder) (s : State) : Keeps s (decideCycle order s) := by
  unfold Machine.decideCycle
  split
  · exact Keeps.refl s
  · exact Keeps.ite (fun _ => Keeps.acceptCycle ..) fun _ => Keeps.rejectCycle s

theorem Keeps.endReceivedCycle (order : ChannelOrder) (s : State) :
    Keeps s (endReceivedCycle order s) := by
  have h := Keeps.decideCycle order s
  unfold Machine.endReceivedCycle
  simp only []
  split
  · refine h.trans ?_
    exact Keeps.framer id
  · exact h

theorem Keeps.readFrame (order : ChannelOrder) (payload : Payload) (service : Byte) (s : State) :
    Keeps s (readFrame order payload service s) := by
  have h := ((Keeps.gatherFrame payload service s).trans (Keeps.handOver order payload _)).trans
    (Keeps.adoptProvisionally service _)
  unfold Machine.readFrame
  simp only []
  refine Keeps.trans ?_ (Keeps.advanceDue _)
  split
  · exact h.trans (Keeps.endReceivedCycle ..)
  · exact h

/-! ## Alignment -/

theorem Keeps.loseFraming (s : State) : Keeps s (loseFraming s) := by
  refine Keeps.framer fun h => ?_
  simp only []
  split
  · exact ⟨Nat.zero_le _, Nat.zero_le _, h.2.2.1, Nat.zero_le _⟩
  · exact ⟨Nat.zero_le _, Nat.zero_le _, h.2.2.1, Nat.zero_le _⟩

theorem Keeps.resyncPlace (order : ChannelOrder) (b : Bool) (payload : Payload) (service : Byte)
    (s : State) : Keeps s (resyncPlace order b payload service s) := by
  unfold Machine.resyncPlace
  simp only []
  split
  · refine Keeps.trans ?_ (Keeps.readFrame ..)
    refine Keeps.trans ?_ (Keeps.leaveIfUnwanted _)
    exact Keeps.link fun h => ⟨h.1, h.2.1, atMost_none 40, h.2.2.2⟩
  · split
    · exact Keeps.resyncLost ..
    · refine Keeps.trans ?_ (Keeps.advanceDue _)
      exact Keeps.link fun h => ⟨h.1, h.2.1, atMost_some (by omega), h.2.2.2⟩

theorem Keeps.alignmentLost (order : ChannelOrder) (payload : Payload) (service : Byte) (s : State) :
    Keeps s (alignmentLost order payload service s) := by
  unfold Machine.alignmentLost
  split
  · exact (Keeps.enterResync s).trans (Keeps.advanceDue _)
  · exact Keeps.failTry ..
  · exact Keeps.loseFraming s
  · exact Keeps.readFrame ..

theorem Keeps.receivePlace (order : ChannelOrder) (marker : Byte) (payload : Payload) (service : Byte)
    (s : State) : Keeps s (receivePlace order marker payload service s) := by
  unfold Machine.receivePlace
  simp only []
  have h : Keeps s (Machine.judgeMarker (marker == markerOf s.framer.dueFrame)
      (if s.framer.dueFrame.val = 0 then Machine.openReceived s else s)) := by
    refine Keeps.trans ?_ (Keeps.judgeMarker ..)
    exact Keeps.ite (fun _ => Keeps.openReceived s) fun _ => Keeps.refl s
  generalize Machine.judgeMarker _ _ = t at h ⊢
  split
  · exact h.trans (Keeps.resyncPlace ..)
  · split
    · exact h.trans (Keeps.alignmentLost ..)
    · exact h.trans (Keeps.readFrame ..)

theorem Keeps.catchUp (order : ChannelOrder) (s : State) : Keeps s (catchUp order s) :=
  Keeps.ite (fun _ => Keeps.startFrame ..) fun _ => Keeps.refl s

/-! ## The hunt -/

theorem Keeps.frameFromMarker (s : State) : Keeps s (frameFromMarker s) :=
  Keeps.framer fun h => ⟨Nat.zero_le _, Nat.zero_le _, h.2.2.1, Nat.zero_le _⟩

theorem Keeps.completeHunt (s : State) : Keeps s (completeHunt s) := by
  unfold Machine.completeHunt
  refine Keeps.trans ?_ (Keeps.beginFrame ..)
  refine Keeps.trans ?_ (Keeps.countCycleStart _)
  refine (Keeps.frameFromMarker s).trans ?_
  exact Keeps.framer id

theorem Keeps.setHunt {s : State} {n : Nat} (h : s.framer.inRange → n ≤ 11) : Keeps s (setHunt s n) :=
  Keeps.framer fun k => ⟨k.1, k.2.1, k.2.2.1, h k⟩

theorem Keeps.huntStep (found : Option Byte) (s : State) : Keeps s (huntStep found s) := by
  unfold Machine.huntStep
  refine Keeps.ite (fun _ => Keeps.setHunt fun h => ?_) fun _ =>
    Keeps.ite (fun _ => Keeps.completeHunt s) fun _ => Keeps.setHunt fun _ => Nat.zero_le _
  have := h.2.2.2
  split <;> omega

theorem Keeps.huntLine (bits : List Bool) (s : State) : Keeps s (huntLine bits s) := by
  unfold Machine.huntLine
  split
  · split
    · exact Keeps.huntStep ..
    · exact Keeps.refl s
  · exact Keeps.ite (fun _ => Keeps.refl s) fun _ => Keeps.huntStep ..

theorem Keeps.searchLine (bits : List Bool) (s : State) : Keeps s (searchLine bits s) :=
  Keeps.ite (fun _ => Keeps.frameFromMarker s) fun _ => Keeps.refl s

end Sys2Proof.Machine
end

