-- ==== Sys2Proof/Laws/LinkView.lean ====
section
/-! SUPPORT. Which operations leave the link controller and what the framer holds of the received side. -/

namespace Sys2Proof.Machine

open Sys2Proof

/-- The link controller and the received side of the framer are as they were. -/
structure SameLink (s t : State) : Prop where
  link : t.link = s.link
  role : t.framer.role = s.framer.role
  framed : t.framer.framed = s.framer.framed
  pendingCheck : t.framer.pendingCheck = s.framer.pendingCheck
  peerFlags : t.framer.peerFlags = s.framer.peerFlags
  nearEnd : t.framer.nearEnd = s.framer.nearEnd
  farEnd : t.framer.farEnd = s.framer.farEnd

theorem SameLink.refl (s : State) : SameLink s s := ⟨rfl, rfl, rfl, rfl, rfl, rfl, rfl⟩

theorem SameLink.trans {s t u : State} (h : SameLink s t) (k : SameLink t u) : SameLink s u :=
  ⟨k.1.trans h.1, k.2.trans h.2, k.3.trans h.3, k.4.trans h.4, k.5.trans h.5, k.6.trans h.6,
    k.7.trans h.7⟩

theorem SameLink.ofEq {s t : State} (h : t.link = s.link) (k : t.framer = s.framer) : SameLink s t := by
  refine ⟨h, ?_, ?_, ?_, ?_, ?_, ?_⟩ <;> rw [k]

theorem TransferStep.sameLink {s t : State} (h : TransferStep s t) : SameLink s t :=
  SameLink.ofEq h.link h.framer

theorem ChannelStep.sameLink {s t : State} (h : ChannelStep s t) : SameLink s t := h.toTransfer.sameLink

theorem SameLink.exchange (s : State) (x : Exchange) : SameLink s { s with exchange := x } :=
  SameLink.ofEq rfl rfl

theorem SameLink.service (s : State) (x : Service) : SameLink s { s with service := x } :=
  SameLink.ofEq rfl rfl

theorem SameLink.ite {s t u : State} {p : Prop} [Decidable p] (h : p → SameLink s t)
    (k : ¬p → SameLink s u) : SameLink s (if p then t else u) := by
  split
  · exact h ‹_›
  · exact k ‹_›

/-- What the framer holds of the received side goes with the link state (R2, R15, R16, R20). -/
theorem SameLink.follows {s t : State} (h : SameLink s t) (k : FramerFollowsLink s) :
    FramerFollowsLink t := by
  unfold FramerFollowsLink
  rw [h.link, h.framed, h.pendingCheck, h.peerFlags, h.nearEnd, h.farEnd]
  exact k

/-! ## The slot plan and the plan exchange -/

theorem SameLink.lockEndClear (s : State) : SameLink s (lockEndClear s) := SameLink.ofEq rfl rfl
theorem SameLink.swapBanks (s : State) : SameLink s (swapBanks s) := SameLink.ofEq rfl rfl
theorem SameLink.unbindArea (s : State) (a : Option AreaNo) : SameLink s (unbindArea s a) := by
  cases a <;> exact SameLink.ofEq rfl rfl

theorem SameLink.closeInPlan (s : State) (c : ChannelNo) : SameLink s (closeInPlan s c) :=
  SameLink.ite (fun _ => SameLink.ofEq rfl rfl) fun _ => SameLink.ofEq rfl rfl

theorem SameLink.closeRecord (s : State) (c : ChannelNo) : SameLink s (closeRecord s c) :=
  SameLink.trans (((ChannelStep.leaveIfWaiting s c).sameLink.trans (SameLink.unbindArea ..)).trans
    (SameLink.closeInPlan ..)) (SameLink.ofEq rfl rfl)

theorem SameLink.closeChannelOp (s : State) (c : ChannelNo) : SameLink s (closeChannelOp s c) :=
  ((ChannelStep.leaveIfWaiting s c).sameLink.trans (ChannelStep.abortOrders ..).sameLink).trans
    (SameLink.closeRecord ..)

theorem SameLink.discardChannel (s : State) (c : ChannelNo) : SameLink s (discardChannel s c) := by
  unfold Machine.discardChannel
  split
  · refine SameLink.trans ?_ (SameLink.closeRecord ..)
    exact SameLink.ofEq rfl rfl
  · exact SameLink.closeRecord ..

theorem SameLink.writeOutcome (s : State) (k : PlanOutcomeKind) (r : Option RefusalReason)
    (q : Option Requester) : SameLink s (writeOutcome s k r q) := SameLink.ofEq rfl rfl

theorem SameLink.endExchange (s : State) (k : PlanOutcomeKind) (r : Option RefusalReason) (b : Bool) :
    SameLink s (endExchange s k r b) := by
  unfold Machine.endExchange
  refine SameLink.trans ?_ (SameLink.writeOutcome ..)
  split <;> split <;> exact SameLink.ofEq rfl rfl

theorem SameLink.appendPlan (s : State) (m : Message) : SameLink s (appendPlan s m) :=
  SameLink.ite (fun _ => SameLink.ofEq rfl rfl) fun _ => SameLink.refl s

theorem SameLink.sendWithdraw (s : State) : SameLink s (sendWithdraw s) :=
  SameLink.ite (fun _ => SameLink.refl s) fun _ => SameLink.appendPlan ..

theorem SameLink.enterScheduled (s : State) (d : Side) (q : Option Requester) (t : Option Byte) :
    SameLink s (enterScheduled s d q t) := SameLink.ofEq rfl rfl

theorem SameLink.answerDisplaced (s : State) (a : Answer) : SameLink s (answerDisplaced s a) :=
  SameLink.ite (fun _ => SameLink.endExchange ..) fun _ => SameLink.refl s

theorem SameLink.writeAnswer (s : State) (m : Message) (a : AnswerSource) :
    SameLink s (writeAnswer s m a) := by
  have h : SameLink s { s with service := { s.service with answer := some ⟨m, a⟩ } } :=
    SameLink.ofEq rfl rfl
  unfold Machine.writeAnswer
  simp only []
  split
  · exact h.trans (SameLink.answerDisplaced ..)
  · exact h

theorem SameLink.offerInIdle (s : State) (d : Word) : SameLink s (offerInIdle s d) := by
  unfold Machine.offerInIdle
  refine SameLink.ite (fun _ => SameLink.writeAnswer ..) fun _ => ?_
  refine SameLink.trans (t := { s with exchange := { s.exchange with
    answer := some (answerDigest s.plan.shadowTables), peerOffer := some d } }) (SameLink.ofEq rfl rfl) ?_
  exact SameLink.ite (fun _ => (SameLink.writeAnswer ..).trans (SameLink.enterScheduled ..))
    fun _ => SameLink.writeAnswer ..

theorem SameLink.planReceived (s : State) (m : Message) : SameLink s (planReceived s m) := by
  unfold Machine.planReceived
  refine SameLink.ite (fun _ => ?_) fun _ => SameLink.ite (fun _ => ?_) fun _ =>
    SameLink.ite (fun _ => ?_) fun _ => ?_
  · unfold offerReceived
    split
    · exact SameLink.offerInIdle ..
    · exact SameLink.writeAnswer ..
    · exact SameLink.ite (fun _ => SameLink.writeAnswer ..)
        fun _ => (SameLink.endExchange ..).trans (SameLink.offerInIdle ..)
  · exact SameLink.ite (fun _ => SameLink.ite (fun _ => SameLink.enterScheduled ..)
      fun _ => (SameLink.sendWithdraw s).trans (SameLink.endExchange ..)) fun _ => SameLink.refl s
  · exact SameLink.ite (fun _ => SameLink.endExchange ..) fun _ => SameLink.refl s
  · exact SameLink.ite (fun _ => SameLink.endExchange ..) fun _ => SameLink.refl s

theorem SameLink.planTimeoutOp (s : State) : SameLink s (planTimeoutOp s) :=
  (SameLink.sendWithdraw s).trans (SameLink.endExchange ..)

theorem SameLink.planSwapOp (order : ChannelOrder) (s : State) : SameLink s (planSwapOp order s) :=
  ((SameLink.swapBanks s).trans (ChannelStep.checkAreas ..).sameLink).trans (SameLink.endExchange ..)

theorem SameLink.bankAdoptionOp (order : ChannelOrder) (s : State) :
    SameLink s (bankAdoptionOp order s) := by
  unfold Machine.bankAdoptionOp
  refine SameLink.trans ?_ (SameLink.exchange ..)
  refine SameLink.trans ?_ (SameLink.writeOutcome ..)
  refine SameLink.trans ?_ (ChannelStep.checkAreas order _).sameLink
  exact SameLink.ite (fun _ => SameLink.refl s) fun _ => SameLink.swapBanks s

theorem SameLink.confirmMismatch (s : State) (b : Bank) : SameLink s (confirmMismatch s b) := by
  have h := SameLink.exchange s { s.exchange with mismatch := true }
  unfold Machine.confirmMismatch
  simp only []
  split <;> split
  · exact (h.trans (SameLink.endExchange ..)).trans (SameLink.exchange ..)
  · exact h.trans (SameLink.endExchange ..)
  · exact (h.trans (SameLink.writeOutcome ..)).trans (SameLink.exchange ..)
  · exact h.trans (SameLink.writeOutcome ..)

theorem SameLink.passBank (flags : Byte) (b : Bank) (s : State) : SameLink s (passBank flags b s) := by
  refine SameLink.ite (fun _ => ?_) fun _ => SameLink.refl s
  refine SameLink.ite (fun _ => SameLink.exchange ..) fun _ => ?_
  exact (SameLink.exchange s _).trans
    (SameLink.ite (fun _ => SameLink.confirmMismatch ..) fun _ => SameLink.refl _)

/-! ## The service channel -/

theorem SameLink.placeInSlot (s : State) (m : Message) : SameLink s (placeInSlot s m) :=
  SameLink.ofEq rfl rfl

theorem SameLink.chooseMessage (s : State) : SameLink s (chooseMessage s) := by
  unfold Machine.chooseMessage
  refine SameLink.ite (fun _ => SameLink.refl s) fun _ => ?_
  split
  · unfold moveAnswer
    simp only []
    split
    · refine SameLink.ite (fun _ => ?_) fun _ => SameLink.ofEq rfl rfl
      refine SameLink.trans ?_ (SameLink.placeInSlot ..)
      exact SameLink.ite (fun _ => SameLink.ofEq rfl rfl) fun _ => SameLink.ofEq rfl rfl
    · exact SameLink.ite (fun _ => SameLink.ofEq rfl rfl) fun _ => SameLink.ofEq rfl rfl
    · exact SameLink.ofEq rfl rfl
  · split
    · exact SameLink.ite (fun _ => SameLink.ofEq rfl rfl) fun _ => SameLink.ofEq rfl rfl
    · exact SameLink.refl s

theorem SameLink.positionBoundary (s : State) : SameLink s (positionBoundary s) :=
  (SameLink.chooseMessage s).trans (SameLink.ofEq rfl rfl)

theorem SameLink.clearTests (s : State) : SameLink s (clearTests s) := ⟨rfl, rfl, rfl, rfl, rfl, rfl, rfl⟩

theorem SameLink.setBlind (s : State) (b : Bool) : SameLink s (setBlind s b) :=
  ⟨rfl, rfl, rfl, rfl, rfl, rfl, rfl⟩

theorem SameLink.setBadChecks (s : State) (b : Bool) : SameLink s (setBadChecks s b) :=
  ⟨rfl, rfl, rfl, rfl, rfl, rfl, rfl⟩

theorem SameLink.maintenanceAction (s : State) (m : Message) : SameLink s (maintenanceAction s m) := by
  unfold Machine.maintenanceAction
  refine SameLink.ite (fun _ => SameLink.ofEq rfl rfl) fun _ => SameLink.ite (fun _ => ?_) fun _ =>
    SameLink.ite (fun _ => SameLink.setBlind ..) fun _ =>
      SameLink.ite (fun _ => SameLink.clearTests s) fun _ => SameLink.refl s
  split <;> exact SameLink.ofEq rfl rfl

theorem SameLink.dispose (s : State) (m : Message) : SameLink s (dispose s m).2 := by
  unfold Machine.dispose
  split
  · exact SameLink.planReceived ..
  · split
    · exact SameLink.ofEq rfl rfl
    · split
      · split
        · unfold autoOrder
          split
          · exact SameLink.writeAnswer ..
          · split
            · exact SameLink.refl s
            · split
              · exact SameLink.ofEq rfl rfl
              · split
                · exact (SameLink.maintenanceAction ..).trans (SameLink.writeAnswer ..)
                · exact SameLink.writeAnswer ..
        · unfold autoValue
          split
          · exact SameLink.writeAnswer ..
          · split
            · split
              · exact (ChannelStep.peerWrite ..).sameLink.trans (SameLink.writeAnswer ..)
              · exact SameLink.writeAnswer ..
            · exact SameLink.writeAnswer ..
      · exact SameLink.ite (fun _ => SameLink.ofEq rfl rfl) fun _ => SameLink.refl s

theorem SameLink.addReport (s : State) (r : Report) : SameLink s (addReport s r) := SameLink.ofEq rfl rfl

theorem SameLink.positionReceived (s : State) (p : Position) (c : Byte) (m : Message) :
    SameLink s (positionReceived s p c m) := by
  have h := SameLink.service s { s.service with
    previous := some m, look := some (nextLook s.service.look m) }
  have k (u : State) := (SameLink.service u { u.service with lastConfirmed := some m }).trans
    (SameLink.dispose _ m)
  unfold Machine.positionReceived
  simp only []
  split
  · split
    · exact (h.trans (k _)).trans (SameLink.addReport ..)
    · split
      · exact (h.trans (k _)).trans (SameLink.addReport ..)
      · exact h.trans (k _)
  · split
    · exact h.trans (SameLink.addReport ..)
    · exact h

end Sys2Proof.Machine
end

