-- ==== Sys2Proof/Laws/Orders.lean ====
section
/-! SUPPORT. What the operations of the channel table keep of the order counts (R117): most leave every order
where it is, the end of an order moves it from its queue to a completion record, and a close takes it away. -/

namespace Sys2Proof.Machine

open Sys2Proof

/-! ## Counting the orders of a port -/

/-- The orders that a channel adds to a port's order count. -/
def share (x : Channel) (p : Port) : Nat := if x.owner = some p then x.queue.length else 0

/-- The orders in the queues of a port's channels (R117). -/
def ordersOf (s : State) (p : Port) : Nat :=
  ((List.finRange 8).map fun c => share (s.channel c) p).sum

theorem ordersCounted_iff (s : State) : OrdersCounted s ↔
    (∀ c, (s.channel c).state = .closed → s.channel c = Channel.closed) ∧
    ∀ p, (s.port p).orderCount = ordersOf s p ∧
      (s.port p).orderCount + (s.port p).completions.length ≤ 16 := Iff.rfl

/-- Two figures for each channel that differ in one channel alone have sums that differ as they do. -/
theorem sum_differs (f g : ChannelNo → Nat) (c : ChannelNo) (h : ∀ d, d ≠ c → g d = f d) :
    ((List.finRange 8).map g).sum + f c = ((List.finRange 8).map f).sum + g c := by
  have rest : (Finset.univ.erase c).sum g = (Finset.univ.erase c).sum f :=
    Finset.sum_congr rfl fun d hd => h d (Finset.ne_of_mem_erase hd)
  have ef := Finset.add_sum_erase _ f (Finset.mem_univ c)
  have eg := Finset.add_sum_erase _ g (Finset.mem_univ c)
  rw [← List.ofFn_eq_map, ← List.ofFn_eq_map, List.sum_ofFn, List.sum_ofFn, ← ef, ← eg]
  eta_reduce at *
  omega

/-- One channel's record changes, and each port's order count with it. -/
theorem OrdersCounted.step {s t : State} (c : ChannelNo) (h : OrdersCounted s)
    (others : ∀ d, d ≠ c → t.channel d = s.channel d)
    (closed : (t.channel c).state = .closed → t.channel c = Channel.closed)
    (counts : ∀ p, (t.port p).orderCount + share (s.channel c) p =
      (s.port p).orderCount + share (t.channel c) p)
    (room : ∀ p, (t.port p).orderCount + (t.port p).completions.length ≤ 16) : OrdersCounted t := by
  refine (ordersCounted_iff t).mpr ⟨fun d hd => ?_, fun p => ⟨?_, room p⟩⟩
  · by_cases hc : d = c
    · subst hc
      exact closed hd
    · rw [others d hc] at hd ⊢
      exact h.1 d hd
  · have e : ordersOf t p + share (s.channel c) p = ordersOf s p + share (t.channel c) p :=
      sum_differs (fun d => share (s.channel d) p) (fun d => share (t.channel d) p) c fun d hd => by
        simp only [others d hd]
    have := counts p
    have := ((ordersCounted_iff s).mp h).2 p
    omega

/-- An owned channel's orders are in its port's order count. -/
theorem OrdersCounted.queue_le {s : State} (h : OrdersCounted s) {c : ChannelNo} {p : Port}
    (ho : (s.channel c).owner = some p) : (s.channel c).queue.length ≤ (s.port p).orderCount := by
  rw [(((ordersCounted_iff s).mp h).2 p).1]
  have e := sum_differs (fun d => if d = c then 0 else share (s.channel d) p)
    (fun d => share (s.channel d) p) c fun d hd => by simp [hd]
  have hs : share (s.channel c) p = (s.channel c).queue.length := by simp [share, ho]
  simp only [if_true] at e
  unfold ordersOf
  omega

/-! ## Steps that leave every order where it is -/

/-- A step that moves no order: each channel keeps its owner and the number of its orders and is not newly
CLOSED, and each port its order count and its completion records. -/
structure QuietStep (s t : State) : Prop where
  owner : ∀ c, (t.channel c).owner = (s.channel c).owner
  length : ∀ c, (t.channel c).queue.length = (s.channel c).queue.length
  closed : ∀ c, (t.channel c).state = .closed →
    (s.channel c).state = .closed ∧ (s.channel c = Channel.closed → t.channel c = Channel.closed)
  count : ∀ p, (t.port p).orderCount = (s.port p).orderCount
  records : ∀ p, (t.port p).completions = (s.port p).completions

theorem QuietStep.refl (s : State) : QuietStep s s :=
  ⟨fun _ => rfl, fun _ => rfl, fun _ h => ⟨h, id⟩, fun _ => rfl, fun _ => rfl⟩

theorem QuietStep.trans {s t u : State} (h : QuietStep s t) (k : QuietStep t u) : QuietStep s u :=
  ⟨fun c => (k.owner c).trans (h.owner c), fun c => (k.length c).trans (h.length c),
    fun c hc =>
      have a := k.closed c hc
      have b := h.closed c a.1
      ⟨b.1, a.2 ∘ b.2⟩,
    fun p => (k.count p).trans (h.count p), fun p => (k.records p).trans (h.records p)⟩

/-- A step that moves no order keeps the order counts right. -/
theorem QuietStep.keeps {s t : State} (k : QuietStep s t) (h : OrdersCounted s) : OrdersCounted t := by
  refine (ordersCounted_iff t).mpr ⟨fun c hc => ?_, fun p => ?_⟩
  · have a := k.closed c hc
    exact a.2 (h.1 c a.1)
  · have e : ordersOf t p = ordersOf s p := by
      unfold ordersOf share
      simp only [k.owner, k.length]
    rw [k.count, k.records, e]
    exact ((ordersCounted_iff s).mp h).2 p

theorem QuietStep.foldl {α : Type} {f : State → α → State} (h : ∀ s x, QuietStep s (f s x))
    (l : List α) : ∀ s, QuietStep s (l.foldl f s) := by
  induction l with
  | nil => exact QuietStep.refl
  | cons x l ih => exact fun s => (h s x).trans (ih _)

/-- A step that leaves the channels and, of each port, the order count and the records. -/
theorem QuietStep.of_channels {s t : State} (h : t.channels = s.channels)
    (hp : ∀ p, (t.port p).orderCount = (s.port p).orderCount ∧
      (t.port p).completions = (s.port p).completions) : QuietStep s t := by
  have hc (c : ChannelNo) : t.channel c = s.channel c := by
    unfold State.channel
    rw [h]
  refine ⟨fun c => by rw [hc], fun c => by rw [hc], fun c => ?_, fun p => (hp p).1, fun p => (hp p).2⟩
  rw [hc]
  exact fun hx => ⟨hx, id⟩

/-- A step that leaves the channels and the ports. -/
theorem QuietStep.apart {s t : State} (h : t.channels = s.channels) (hp : t.ports = s.ports) :
    QuietStep s t := by
  refine QuietStep.of_channels h fun p => ?_
  unfold State.port
  rw [hp]
  exact ⟨rfl, rfl⟩

theorem QuietStep.setPort {s : State} {p : Port} {q : PortState}
    (h : q.orderCount = (s.port p).orderCount) (k : q.completions = (s.port p).completions) :
    QuietStep s (s.setPort p q) := by
  refine QuietStep.of_channels rfl fun r => ?_
  rw [State.setPort_port]
  split
  · rename_i hr
    rw [hr]
    exact ⟨h, k⟩
  · exact ⟨rfl, rfl⟩

theorem QuietStep.raise (s : State) (p : Port) (e : Event) : QuietStep s (s.raise p e) :=
  QuietStep.setPort rfl rfl

theorem QuietStep.raiseOwner (s : State) (o : Option Port) (e : Event) :
    QuietStep s (s.raiseOwner o e) := by
  cases o with
  | none => exact QuietStep.refl s
  | some p => exact QuietStep.raise s p e

theorem QuietStep.recordChange (s : State) (k : CellNo) : QuietStep s (s.recordChange k) := by
  refine QuietStep.of_channels rfl fun p => ?_
  rw [State.recordChange_port]
  unfold PortState.recordChange
  split <;> exact ⟨rfl, rfl⟩

theorem QuietStep.setChannel {s : State} {c : ChannelNo} {x : Channel}
    (ho : x.owner = (s.channel c).owner) (hq : x.queue.length = (s.channel c).queue.length)
    (hx : x.state = .closed →
      (s.channel c).state = .closed ∧ (s.channel c = Channel.closed → x = Channel.closed)) :
    QuietStep s (s.setChannel c x) := by
  refine ⟨fun d => ?_, fun d => ?_, fun d => ?_, fun _ => rfl, fun _ => rfl⟩ <;>
    rw [State.setChannel_channel] <;> split
  · rename_i h
    rw [h, ho]
  · rfl
  · rename_i h
    rw [h, hq]
  · rfl
  · rename_i h
    rw [h]
    exact hx
  · exact fun h => ⟨h, id⟩

theorem QuietStep.setChannelState (s : State) (c : ChannelNo) {x : ChannelState} (h : x ≠ .closed) :
    QuietStep s (s.setChannelState c x) := QuietStep.setChannel rfl rfl fun e => absurd e h

/-! ## Cells and gates -/

theorem QuietStep.setCell (s : State) (k : CellNo) (x : Cell) : QuietStep s (s.setCell k x) :=
  QuietStep.apart rfl rfl

theorem QuietStep.writeCell (s : State) (k : CellNo) (v : Word) : QuietStep s (s.writeCell k v) := by
  unfold State.writeCell
  split
  · exact QuietStep.refl s
  · exact (QuietStep.setCell s k _).trans (QuietStep.recordChange ..)

theorem QuietStep.gateTakes (k : CellNo) (ws : List ChannelNo) :
    ∀ s, QuietStep s (gateTakes k ws s).1 := by
  induction ws with
  | nil => exact QuietStep.refl
  | cons w rest ih =>
    intro s
    simp only [Machine.gateTakes]
    split
    · exact QuietStep.refl s
    · exact (((QuietStep.writeCell s k _).trans (QuietStep.setCell ..)).trans
        (QuietStep.setChannelState _ w (by simp))).trans (ih _)

theorem QuietStep.gateRule (s : State) (k : CellNo) : QuietStep s (gateRule s k).1 :=
  QuietStep.gateTakes ..

theorem QuietStep.joinGate (s : State) (c : ChannelNo) (k : CellNo) : QuietStep s (joinGate s c k) :=
  (QuietStep.setCell s k _).trans (QuietStep.gateRule ..)

theorem QuietStep.incrementCell (s : State) (k : CellNo) : QuietStep s (incrementCell s k) :=
  (QuietStep.writeCell s k _).trans (QuietStep.gateRule ..)

theorem QuietStep.peerWrite (s : State) (k : CellNo) (v : Word) : QuietStep s (peerWrite s k v) :=
  (QuietStep.writeCell s k _).trans (QuietStep.gateRule ..)

/-! ## Orders -/

theorem QuietStep.becomeCurrent (s : State) (c : ChannelNo) : QuietStep s (becomeCurrent s c) := by
  unfold Machine.becomeCurrent
  split
  · exact QuietStep.setChannelState s c (by simp)
  · split
    · exact QuietStep.setChannelState s c (by simp)
    · exact (QuietStep.setChannelState s c (by simp)).trans (QuietStep.joinGate ..)

theorem QuietStep.leaveIfWaiting (s : State) (c : ChannelNo) : QuietStep s (leaveIfWaiting s c) := by
  unfold Machine.leaveIfWaiting
  split
  · split
    · exact QuietStep.setCell ..
    · exact QuietStep.refl s
  · exact QuietStep.refl s

theorem QuietStep.countCompletion (s : State) (o : Order) (r : OrderOutcome) :
    QuietStep s (countCompletion s o r) := by
  unfold Machine.countCompletion
  split
  · split
    · exact QuietStep.incrementCell ..
    · exact QuietStep.refl s
  · exact QuietStep.refl s

theorem QuietStep.haltChannel (s : State) (c : ChannelNo) (r : HaltReason) :
    QuietStep s (haltChannel s c r) := by
  have k : QuietStep s (s.setChannel c { s.channel c with state := .halted, halt := some r }) :=
    QuietStep.setChannel rfl rfl fun e => ChannelState.noConfusion e
  exact k.trans (QuietStep.raiseOwner ..)

theorem QuietStep.setLoopPause {s : State} {c : ChannelNo} {b : Bool}
    (h : s.channel c = Channel.closed → b = false) : QuietStep s (setLoopPause s c b) := by
  unfold Machine.setLoopPause
  split
  · exact QuietStep.refl s
  · rename_i hb
    have k : QuietStep s (s.setChannel c { s.channel c with loopPause := b }) := by
      refine QuietStep.setChannel rfl rfl fun e => ⟨e, fun hc => absurd ?_ hb⟩
      rw [h hc, hc]
      rfl
    first
      | exact k
      | exact k.trans (QuietStep.raiseOwner ..)

theorem QuietStep.updateLoopPauses (s : State) : QuietStep s (updateLoopPauses s) := by
  refine QuietStep.foldl (fun t c => ?_) _ s
  unfold updateLoopPause
  split
  · rename_i hd
    refine QuietStep.setLoopPause fun hc => ?_
    rw [hc] at hd
    cases hd
  · exact QuietStep.refl t

theorem QuietStep.moveHead (s : State) (c : ChannelNo) (n : Nat) : QuietStep s (moveHead s c n) := by
  unfold Machine.moveHead
  split
  · exact QuietStep.refl s
  · rename_i o rest hq
    refine QuietStep.setChannel rfl (by simp [hq]) fun e => ⟨e, fun hc => ?_⟩
    rw [hc] at hq
    cases hq

/-- The end of an order: it goes from its queue to a completion record (R127). -/
theorem OrdersCounted.endHead {s : State} (h : OrdersCounted s) (c : ChannelNo) (r : OrderOutcome) :
    OrdersCounted (endHead s c r) := by
  unfold Machine.endHead
  split
  · exact h
  · rename_i o rest hq
    refine (QuietStep.countCompletion ..).keeps (h.step c (fun d hd => ?_) (fun hc => ?_)
      (fun p => ?_) fun p => ?_)
    · unfold Machine.recordEnd
      split <;> simp [hd]
    · have hs : (s.channel c).state = .closed := by
        unfold Machine.recordEnd at hc
        split at hc <;> simpa using hc
      rw [h.1 c hs] at hq
      cases hq
    all_goals
      have hr := (h.2 p).2
      have hle := h.queue_le (c := c) (p := p)
      unfold Machine.recordEnd
      simp only [State.setChannel_channel, if_true]
      cases ho : (s.channel c).owner with
      | none => simp [ho, share, hr]
      | some q =>
        by_cases hp : p = q
        · subst hp
          have := hle ho
          rw [hq] at this
          simp [PortState.complete, PortState.raise, ho, hq, share] at *
          omega
        · have hp' : ¬q = p := fun e => hp e.symm
          simp [hp, hp', ho, share, hr]

theorem OrdersCounted.endAndAdvance {s : State} (h : OrdersCounted s) (c : ChannelNo) (r : OrderOutcome) :
    OrdersCounted (endAndAdvance s c r) := (QuietStep.becomeCurrent ..).keeps (h.endHead c r)

theorem OrdersCounted.endAndHalt {s : State} (h : OrdersCounted s) (c : ChannelNo) (r : OrderOutcome)
    (reason : HaltReason) : OrdersCounted (endAndHalt s c r reason) :=
  (QuietStep.haltChannel ..).keeps (((QuietStep.leaveIfWaiting s c).keeps h).endHead c r)

theorem OrdersCounted.abortOrders (c : ChannelNo) (l : List Order) :
    ∀ {s}, OrdersCounted s → OrdersCounted (abortOrders c l s) := by
  induction l with
  | nil => exact id
  | cons _ l ih => exact fun h => ih (h.endHead c _)

theorem OrdersCounted.foldl {α : Type} {f : State → α → State}
    (h : ∀ s x, OrdersCounted s → OrdersCounted (f s x)) (l : List α) :
    ∀ s, OrdersCounted s → OrdersCounted (l.foldl f s) := by
  induction l with
  | nil => exact fun _ => id
  | cons x l ih => exact fun s hs => ih _ (h s x hs)

theorem OrdersCounted.checkAreas {s : State} (h : OrdersCounted s) (order : ChannelOrder) :
    OrdersCounted (checkAreas order s) := by
  refine OrdersCounted.foldl (fun t c ht => ?_) _ s h
  unfold checkArea
  split
  · split
    · exact ht.endAndHalt ..
    · exact (QuietStep.haltChannel ..).keeps ht
  · exact ht

theorem OrdersCounted.channelsDown {s : State} (h : OrdersCounted s) (order : ChannelOrder) :
    OrdersCounted (channelsDown order s) := by
  refine OrdersCounted.foldl (fun t c ht => ?_) _ s h
  unfold channelDown
  refine (QuietStep.setLoopPause fun _ => rfl).keeps ?_
  split
  · exact ht.endAndHalt ..
  · exact ht

/-! ## Rings and units -/

theorem QuietStep.ringAppendAll (n : AreaNo) (l : List Byte) :
    ∀ s, QuietStep s (ringAppendAll n l s) := by
  induction l with
  | nil => exact QuietStep.refl
  | cons b l ih =>
    intro s
    have k : QuietStep s (ringAppend s n b) := QuietStep.apart rfl rfl
    exact k.trans (ih _)

theorem QuietStep.ringTake (n : AreaNo) (k : Nat) : ∀ s, QuietStep s (ringTake n k s).2 := by
  induction k with
  | zero => exact QuietStep.refl
  | succ k ih =>
    intro s
    have q : QuietStep s (ringRemove s n) := QuietStep.apart rfl rfl
    exact q.trans (ih _)

theorem OrdersCounted.formUnit {s : State} (h : OrdersCounted s) (c : ChannelNo) :
    OrdersCounted (formUnit s c).2 := by
  unfold Machine.formUnit
  split
  · split
    · rename_i a o _ _ _
      have hm := ((QuietStep.ringTake a (unitCount s c a o) s).trans
        (QuietStep.moveHead _ c (unitCount s c a o))).keeps h
      simp only [takeUnit]
      split
      · exact hm.endAndAdvance ..
      · exact hm
    · exact h
  · exact h

theorem OrdersCounted.formUnits (l : List ChannelNo) :
    ∀ (u : FrameUnits) (s : State), OrdersCounted s → OrdersCounted (formUnits l (u, s)).2 := by
  induction l with
  | nil => exact fun _ _ => id
  | cons c l ih => exact fun u s h => ih _ _ (h.formUnit c)

theorem OrdersCounted.deliverBytes (c : ChannelNo) (e : Bool) (fuel : Nat) :
    ∀ (data : List Byte) (s : State), OrdersCounted s → OrdersCounted (deliverBytes c e fuel data s) := by
  induction fuel with
  | zero => exact fun _ _ => id
  | succ fuel ih =>
    intro data s h
    have hm (a : AreaNo) (l : List Byte) (k : Nat) : OrdersCounted (moveHead (ringAppendAll a l s) c k) :=
      ((QuietStep.ringAppendAll a l s).trans (QuietStep.moveHead ..)).keeps h
    simp only [Machine.deliverBytes]
    split
    · split
      · exact (hm ..).endAndHalt ..
      · split
        · split
          · exact (hm ..).endAndAdvance ..
          · exact ih _ _ ((hm ..).endAndAdvance ..)
        · split
          · exact (hm ..).endAndAdvance ..
          · exact hm ..
    · split
      · exact h
      · exact (QuietStep.raiseOwner ..).keeps h

theorem OrdersCounted.deliverFrame {s : State} (h : OrdersCounted s) (order : ChannelOrder)
    (payload : Payload) : OrdersCounted (deliverFrame order payload s) := by
  unfold Machine.deliverFrame
  split
  · refine OrdersCounted.foldl (fun t c ht => ?_) _ s h
    unfold deliverChannel deliverUnit
    split
    · split
      · exact ht
      · simp only []
        split
        · exact (QuietStep.raiseOwner ..).keeps ht
        · exact OrdersCounted.deliverBytes _ _ _ _ _ ht
    · exact ht
  · exact h

/-! ## Openings and closings -/

/-- An order posted with room for it (R117, R122). -/
theorem OrdersCounted.appendOrder {s : State} (h : OrdersCounted s) {p : Port} {c : ChannelNo} (o : Order)
    (hc : (s.channel c).state ≠ .closed) (ho : (s.channel c).owner = some p)
    (room : (s.port p).orderCount + (s.port p).completions.length < 16) :
    OrdersCounted (appendOrder p c o s) := by
  refine h.step c (fun d hd => ?_) (fun e => ?_) (fun r => ?_) fun r => ?_
  · simp [Machine.appendOrder, hd]
  · simp [Machine.appendOrder] at e
    exact absurd e hc
  · by_cases hr : r = p
    · subst hr
      simp [Machine.appendOrder, share, ho]
      omega
    · have hr' : ¬p = r := fun e => hr e.symm
      simp [Machine.appendOrder, share, ho, hr, hr']
  · have := (h.2 r).2
    by_cases hr : r = p
    · subst hr
      simp [Machine.appendOrder]
      omega
    · simpa [Machine.appendOrder, hr] using this

/-- A CLOSED channel opened, with an empty queue (R118). -/
theorem OrdersCounted.opened {s : State} (h : OrdersCounted s) {c : ChannelNo} (p : Port) (d : Direction)
    (n : AreaNo) (hc : (s.channel c).state = .closed) :
    OrdersCounted (s.setChannel c (Channel.opened p d n)) := by
  refine h.step c (fun e he => by simp [he]) (fun e => ?_) (fun r => ?_) fun r => (h.2 r).2
  · simp [Channel.opened] at e
  · simp [share, h.1 c hc, Channel.opened, Channel.closed]

/-- A channel without orders closed. -/
theorem OrdersCounted.closed {s : State} (h : OrdersCounted s) {c : ChannelNo}
    (hq : (s.channel c).queue = []) : OrdersCounted (s.setChannel c Channel.closed) := by
  refine h.step c (fun e he => by simp [he]) (fun _ => by simp) (fun r => ?_) fun r => (h.2 r).2
  simp [share, hq, Channel.closed]

end Sys2Proof.Machine
end

