-- ==== Sys2Proof/Laws/Windows.lean ====
section
/-! SUPPORT. What a transaction keeps of the agreement between SDOn and the select line (R155, R170), and
where its rows begin and end. -/

namespace Sys2Proof.Machine

open Sys2Proof

/-! ## SDOn follows the select line (R155) -/

/-- A step that replaces one port's transaction and SDOn by a pair that agrees keeps the agreement. -/
theorem SdoFollowsSelect.setPort {s : State} (h : SdoFollowsSelect s) {p : Port} {q : PortState}
    (hq : q.sdo.isSome ↔ ∃ header, q.transaction = .taken header) : SdoFollowsSelect (s.setPort p q) := by
  intro r
  rw [State.setPort_port]
  split
  · exact hq
  · exact h r

theorem SdoFollowsSelect.beginAccess {s : State} (h : SdoFollowsSelect s) (p : Port) (header : Byte) :
    SdoFollowsSelect (s.beginAccess p header) :=
  h.setPort ⟨fun _ => ⟨header, rfl⟩, fun _ => rfl⟩

theorem SdoFollowsSelect.endAccess {s : State} (h : SdoFollowsSelect s) (p : Port) :
    SdoFollowsSelect (s.endAccess p) :=
  h.setPort ⟨fun e => (by cases e), fun ⟨_, e⟩ => (by cases e)⟩

/-- A port that takes a transaction drives SDOn. -/
theorem SdoFollowsSelect.shiftOut {s : State} (h : SdoFollowsSelect s) {p : Port} {header : Byte}
    (ht : (s.port p).transaction = .taken header) (b : Byte) : SdoFollowsSelect (s.shiftOut p b) :=
  h.setPort ⟨fun _ => ⟨header, ht⟩, fun _ => rfl⟩

theorem SdoFollowsSelect.sendByte {s : State} (h : SdoFollowsSelect s) {p : Port} {header : Byte}
    (ht : (s.port p).transaction = .taken header) (b : Byte) : SdoFollowsSelect (s.sendByte p b) :=
  h.setPort ⟨fun _ => ⟨header, ht⟩, fun _ => rfl⟩

theorem SdoFollowsSelect.clearSent {s : State} (h : SdoFollowsSelect s) (p : Port) :
    SdoFollowsSelect (s.clearSent p) := h.setPort (h p)

theorem SdoFollowsSelect.transact {s : State} (h : SdoFollowsSelect s) (p : Port) (header : Byte)
    {act : State → State} (ha : ∀ t, SdoFollowsSelect t → SdoFollowsSelect (act t)) :
    SdoFollowsSelect (transact p header act s) := (ha _ (h.beginAccess p header)).endAccess p

/-- The act of a data byte is only run while its port takes the transaction. -/
theorem SdoFollowsSelect.transactByte {s : State} (h : SdoFollowsSelect s) (p : Port) (header : Byte)
    (begins ends : Bool) {act : State → State}
    (ha : ∀ t, (t.port p).transaction = .taken header → SdoFollowsSelect t → SdoFollowsSelect (act t)) :
    SdoFollowsSelect (transactByte p header begins ends act s) := by
  have run : ∀ t, SdoFollowsSelect t →
      SdoFollowsSelect (if (t.port p).transaction = .taken header then act t else t) := by
    intro t ht
    split
    · rename_i e
      exact ha t e ht
    · exact ht
  have b : SdoFollowsSelect (if begins then (s.beginAccess p header).clearSent p else s) := by
    split
    · exact (h.beginAccess p header).clearSent p
    · exact h
  unfold Machine.transactByte
  simp only []
  split
  · exact (run _ b).endAccess p
  · exact run _ b

/-! ## The port that a transaction leaves -/

/-- A whole transaction ends with SELn high. -/
theorem transact_transaction (p : Port) (header : Byte) (act : State → State) (s : State) :
    ((transact p header act s).port p).transaction = .off := by
  simp [transact, State.endAccess, State.setTransaction]

/-- A byte of a transaction that the port does not take, and that neither begins nor ends one, changes
nothing (R170). -/
theorem transactByte_disregarded {p : Port} {header : Byte} {act : State → State} {s : State}
    (h : (s.port p).transaction ≠ .taken header) : transactByte p header false false act s = s := by
  simp [transactByte, h]

/-! ## The bytes on SDOn -/

/-- A read of a data window adds one byte to those sent, the byte that the window then shows (R110, R111). -/
theorem windowRead_sent (p : Port) (c : ChannelNo) (s : State) :
    ((windowRead p c s).port p).sent = (s.port p).sent ++ [dataWindowByte s p c] ∧
      ((windowRead p c s).port p).sdo = some (dataWindowByte s p c) := by
  unfold windowRead
  split
  · simp [State.sendByte, State.raise, PortState.raise]
  · split
    · exact ⟨by simp [State.sendByte, ringRemove, State.setArea, State.port, State.setPort],
        by simp [State.sendByte, ringRemove, State.setArea, State.port, State.setPort]⟩
    · simp [State.sendByte, State.raise, PortState.raise]

/-! ## The rows of a data window's transaction -/

theorem windowWrites_length (p : Port) (c : ChannelNo) (l : List Byte) :
    ∀ b, (windowWrites p c b l).length = l.length := by
  induction l with
  | nil => exact fun _ => rfl
  | cons x l ih =>
    intro b
    cases l with
    | nil => rfl
    | cons y l => simpa [windowWrites] using ih false

theorem windowReads_length (p : Port) (c : ChannelNo) : ∀ n b, (windowReads p c b n).length = n
  | 0, _ => rfl
  | 1, _ => rfl
  | n + 2, _ => congrArg (· + 1) (windowReads_length p c (n + 1) false)

end Sys2Proof.Machine
end

