-- ==== Sys2Proof/Tests/Slice0.lean ====
section
/-! SUPPORT. Named tests: the terms that well-formedness refuses, figures that the manual works out, and for
each statement with hypotheses a state and operands that meet them, clause by clause. -/

namespace Sys2Proof.Tests

open Sys2Proof Sys2Proof.Machine

section

/- One theorem after another: the kernel's evaluations would else wait for one another, a thread each. -/
set_option Elab.async false

/-! ## Helpers -/

/-- The state after a step; the state itself where the step gives none. -/
def after (i : Instr) (s : State) : State :=
  match exec i s with
  | .next t => t
  | _ => s

/-- P1's slot PENDING with a code and a parameter block. -/
def cmd (code : Byte) (params : List Byte) (s : State) : State :=
  s.setPort .p1 { s.port .p1 with command := .pending, code := code, parameters := blockOf params }

/-- The link in a state. -/
def inLink (x : LinkState) (s : State) : State := { s with link := { s.link with state := x } }

/-- The Follow end's state after reset. -/
def follow : State := State.afterReset .follow

/-- The state after reset with the link UP, framed. -/
def upState : State :=
  inLink .up { State.reset with framer := { State.reset.framer with framed := true } }

/-- The engine takes P1's command and it completes with the code and these first result bytes. -/
def answers (i : Instr) (s : State) (code : ResultCode) (results : List Byte) : Bool :=
  s.nextTaken == some .p1 && ((after i s).port .p1).resultCode == code
    && ((after i s).port .p1).result.toList.take results.length == results

/-- A FREE area 0 of P1 over one block, holding bytes from a position. -/
def freeArea (s : State) : State := s.setArea 0 ⟨.free, some .p1, some 0, some 1, 0, 0, 0, none⟩

/-- Channel 0 of P1 on area 0 over one block, with a direction, a state and orders. -/
def chan (d : Direction) (x : ChannelState) (queue : List Order) (s : State) : State :=
  (s.setArea 0 ⟨.bound, some .p1, some 0, some 1, 0, 0, 0, some 0⟩).setChannel 0
    ⟨x, some .p1, some d, some 0, queue, none, false⟩

/-- An order of `n` bytes. -/
def order (n : Nat) (gate : Option CellNo) : Order := ⟨7#8, n, 0, gate, none⟩

/-- The area 0 with a fill level from position 0. -/
def filled (n : Nat) (s : State) : State := s.setArea 0 { s.area 0 with fill := n, writePos := n % 64 }

/-- A cell's value and waiters. -/
def cellAt (k : CellNo) (v : Word) (w : List ChannelNo) (s : State) : State := s.setCell k ⟨v, w⟩

/-- The channels in rising order. -/
def rising : ChannelOrder := [0, 1, 2, 3, 4, 5, 6, 7]

/-- A table with one slot given to a channel. -/
def oneSlot (i : SlotNo) (c : ChannelNo) : SlotTable := (Vector.replicate 24 none).set i.val (some c)

/-! ## Well-formedness -/

theorem test_orders_wellFormed : (Instr.outboundFrameStart rising).wellFormed = true := by decide
theorem test_short_order_refused : (Instr.outboundFrameStart [0, 1]).wellFormed = false := by decide
theorem test_repeated_order_refused :
    (Instr.receivedFrame 0#8 (Vector.replicate 96 0#8) 0#8 [0, 0, 1, 2, 3, 4, 5, 6]).wellFormed = false := by
  decide
theorem test_long_order_refused : (Instr.planSwap (0 :: rising)).wellFormed = false := by decide
theorem test_timer_orders_refused :
    [Instr.wakeToneTimerExpiry [], .alignTimerExpiry [], .readyWaitExpiry [], .resyncLimit [],
      .leavingComplete [], .planSwap [], .bankAdoption []].all (fun i => !i.wellFormed) = true := by decide
theorem test_command_without_code_refused : (Instr.commandWrite .p1 []).wellFormed = false := by decide
theorem test_parameter_without_data_refused : (Instr.parameterWrite .p1 0#8 []).wellFormed = false := by decide
theorem test_header_of_command_refused : (Instr.noTargetAccess .p1 0x00#8 []).wellFormed = false := by decide
theorem test_headers_without_target :
    [0x10#8, 0x0E#8, 0x8F#8, 0x01#8, 0x03#8, 0x80#8].all
      (fun h => (Instr.noTargetAccess .p1 h []).wellFormed) = true := by decide
theorem test_headers_agree : ∀ h : Byte, headerMeetsNoTarget h = meetsNoTarget h := by decide +kernel

/-! ## Figures of the manual -/

/-- The check of the nine digits (R9's polynomial and start). -/
theorem test_check_of_digits :
    checkBytes [0x31#8, 0x32#8, 0x33#8, 0x34#8, 0x35#8, 0x36#8, 0x37#8, 0x38#8, 0x39#8] checkStart
      = 0x29B1#16 := by decide +kernel

/-- The engine's rotation starts after P3 (R159). -/
theorem test_rotation_after_reset : portRotation State.reset.lastServed = [.p1, .p2, .p3] := rfl

/-! ## The machine as a whole -/

theorem test_witness_idle : State.reset.pending = [] ∧ State.reset.freeNext = 0 := ⟨rfl, rfl⟩

/-- A state after a data-window byte into a ring: pool, rings, events and counts are in play. -/
def written : State := after (.dataWindowWrite .p1 0 ⟨0xA5#8, true, false⟩) (chan .out .idle [] upState)

/-- `written` with the next byte waiting. -/
def writing : State := { written with pending := [.dataWindowWrite .p1 0 ⟨0x5A#8, false, false⟩] }

theorem test_written_pool : written.pool = [(0, 0xA5#8)] := by decide +kernel
theorem test_witness_pool : PoolCanonical writing := by unfold PoolCanonical; decide +kernel
theorem test_witness_events : EventsInRange writing := by
  intro p; cases p <;> exact ⟨by decide +kernel, by decide +kernel⟩
theorem test_witness_gates : GatesShut writing := by unfold GatesShut; decide +kernel
theorem test_witness_rings : RingsInRange writing := by
  intro n
  fin_cases n
  · exact ⟨by decide +kernel, by decide +kernel, by decide +kernel, by decide +kernel, by decide +kernel⟩
  all_goals exact ⟨by decide +kernel, by decide +kernel, by decide +kernel⟩
theorem test_witness_framer : FramerFollowsLink writing := by
  refine ⟨fun h => ?_, fun h => ?_⟩
  · exact absurd h (by decide +kernel)
  · exact ⟨by decide +kernel, by decide +kernel⟩
theorem test_witness_counts : CountsInRange writing := by
  have no : ∀ (n : Nat) (x : Option Nat), x = none → atMost n x := by
    intro n x h k hk; rw [h] at hk; cases hk
  refine ⟨⟨by decide +kernel, no _ _ (by decide +kernel), no _ _ (by decide +kernel),
    no _ _ (by decide +kernel)⟩, ⟨by decide +kernel, by decide +kernel, by decide +kernel, by decide +kernel⟩,
    ⟨by decide +kernel, by decide +kernel, by decide +kernel, no _ _ (by decide +kernel), ?_⟩,
    ⟨by decide +kernel, by decide +kernel⟩, by decide +kernel⟩
  intro r h
  exact absurd h (by rw [show writing.service.look = none by decide +kernel]; simp)
theorem test_witness_orders : OrdersCounted writing := by
  refine ⟨by decide +kernel, fun p => ?_⟩
  cases p <;> exact ⟨by decide +kernel, by decide +kernel⟩
theorem test_witness_waiters : WaitersMatch writing := by
  refine ⟨by decide +kernel, by decide +kernel, by decide +kernel⟩
theorem test_witness_sdo : SdoFollowsSelect writing := by
  intro p
  cases p
  · exact ⟨fun _ => ⟨0x06#8, by decide +kernel⟩, fun _ => by decide +kernel⟩
  all_goals exact ⟨fun h => absurd h (by decide +kernel),
    fun ⟨_, h⟩ => absurd h (by rw [show (writing.port _).transaction = .off by decide +kernel]; simp)⟩
theorem test_witness_step : step writing = .next (after (.dataWindowWrite .p1 0 ⟨0x5A#8, false, false⟩)
    { writing with pending := [] }) := rfl
/-- The pins sampled as reset ends: a selected port, and one that is not (R170). -/
theorem test_reset_pins :
    let t := after (.powerOnReset ⟨false, [.p2]⟩) writing
    t.framer.role = .follow ∧ (t.port .p2).transaction = .disregarded ∧ (t.port .p1).transaction = .off ∧
    (t.port .p1).sdo = none ∧
    after (.dataWindowWrite .p2 0 ⟨1#8, false, false⟩) t = t ∧
    ((after (.dataWindowWrite .p2 0 ⟨1#8, false, true⟩) t).port .p2).transaction = .off ∧
    ((after (.dataWindowWrite .p2 0 ⟨1#8, false, true⟩) t).port .p2).holds .access = false := by decide +kernel

/-! ## The command engine -/

/-- A port's slot PENDING. -/
def slotPending (p : Port) (s : State) : State := s.setPort p { s.port p with command := .pending }

theorem test_witness_rotation :
    State.reset.nextTaken = none ∧
    [Port.p1, .p2, .p3].all (fun last =>
      let s := { State.reset with lastServed := last }
      [Port.p1, .p2, .p3].all (fun p => (slotPending p s).nextTaken == some p)
        && (slotPending .p1 (slotPending .p2 (slotPending .p3 s))).nextTaken == (portRotation last).head?)
      = true := by decide +kernel
theorem test_witness_unknown_code :
    [0x00#8, 0x05#8, 0x59#8, 0xFF#8].all (fun c => !commandCodes.contains c
      && answers (.unknownCommand .p1) (cmd c [] State.reset) .unknown []) = true := by decide +kernel
theorem test_witness_not_taken :
    commandCodes.all (fun c => !engineTakes State.reset .p1 c && !engineTakes (cmd 0x00#8 [] State.reset) .p1 c)
      = true := by decide +kernel
/-- The rows of one flag, action, scope or operation whose byte names another, and a known code. -/
theorem test_witness_row_not_named :
    [(Instr.sendService .p1, cmd 0x10#8 [0, 0, 0, 0, 0, 1] upState),
      (.sendServiceAnswer .p1, cmd 0x10#8 [0, 0, 0, 0, 0, 0] upState),
      (.maintLoopAll .p1, cmd 0x12#8 [8] upState), (.maintClearAll .p1, cmd 0x12#8 [1] upState),
      (.abortCurrent .p1, cmd 0x43#8 [0, 1] upState), (.abortAll .p1, cmd 0x43#8 [0, 0] upState),
      (.settingsRead .p1, cmd 0x60#8 [1] upState), (.settingsWrite .p1, cmd 0x60#8 [0] upState),
      (.unknownCommand .p1, cmd 0x01#8 [] upState), (.linkUp .p1, cmd 0x02#8 [] upState)].all
      (fun r => after r.1 r.2 == r.2) = true := by decide +kernel

/-! ## Claims, status, counters -/

theorem test_linkUp_begins_try :
    engineTakes (cmd 0x01#8 [] State.reset) .p1 0x01#8 = true ∧
    (after (.linkUp .p1) (cmd 0x01#8 [] State.reset)).link.state = .waking := by decide +kernel
theorem test_linkUp_answers_wake :
    (after (.linkUp .p1) (cmd 0x01#8 [] { State.reset with
      link := { State.reset.link with wakeHeard := true } })).link.state = .answering := by decide +kernel
theorem test_linkUp_waits_for_guard :
    (after (.linkUp .p1) (cmd 0x01#8 [] { State.reset with
      link := { State.reset.link with quietGuard := true } })).link.state = .down := by decide +kernel
theorem test_linkUp_keeps_tries_in_answering :
    let tried (x : LinkState) : State := cmd 0x01#8 [] (inLink x { State.reset with
      link := { State.reset.link with tryCount := 3 } })
    (after (.linkUp .p1) (tried .answering)).link.tryCount = 3 ∧
    (after (.linkUp .p1) (tried .answering)).link.claims.p1 = true ∧
    (after (.linkUp .p1) (tried .waking)).link.tryCount = 0 := by decide +kernel
theorem test_linkDown_leaves :
    engineTakes (cmd 0x02#8 [] upState) .p1 0x02#8 = true ∧
    (after (.linkDown .p1) (cmd 0x02#8 [] upState)).link.state = .leaving := by decide +kernel
theorem test_linkDown_stays_for_peer :
    (after (.linkDown .p1) (cmd 0x02#8 [] { upState with
      link := { upState.link with peerDemand := true } })).link.state = .up := by decide +kernel
theorem test_witness_linkDown_in_down :
    let s := cmd 0x02#8 [] { State.reset with settings := { State.reset.settings with autoAnswer := false } }
    engineTakes s .p1 0x02#8 = true ∧ s.link.state = .down ∧ s.settings.autoAnswer = false ∧
      (after (.linkDown .p1) s).link.state = .down := by decide +kernel
/-- In DOWN a claim left by another port begins a try, or answers a WAKE being heard (R26, R28). -/
theorem test_linkDown_decides_in_down :
    let s := cmd 0x02#8 [] { State.reset with
      settings := { State.reset.settings with autoAnswer := false }
      link := { State.reset.link with claims := ⟨true, true, false⟩ } }
    (after (.linkDown .p1) s).link.state = .waking ∧ (after (.linkDown .p1) s).framer.line = .wakeTone ∧
    (after (.linkDown .p1) { s with link := { s.link with tryCount := 5 } }).link.state = .down ∧
    (after (.linkDown .p1) { s with link := { s.link with wakeHeard := true } }).link.state = .answering := by
  decide +kernel
theorem test_linkStatus :
    answers (.linkStatus .p1) (cmd 0x03#8 [] upState) .done [5#8, 0#8, 1#8, 0#8, 0#8, 0#8, 0#8, 1#8] = true := by
  decide +kernel
theorem test_counters_clear :
    let s := cmd 0x04#8 [1#8] { upState with framer := { upState.framer with nearEnd := 3#8, farEnd := 255#8 } }
    answers (.counters .p1) s .done [3#8, 255#8] = true ∧ (after (.counters .p1) s).framer.farEnd = 0#8 := by
  decide +kernel
theorem test_witness_counters_at_rest : FramerFollowsLink State.reset ∧ State.reset.link.state = .down :=
  ⟨⟨fun _ => ⟨rfl, rfl, rfl⟩, fun _ => ⟨rfl, rfl⟩⟩, rfl⟩

/-! ## The service channel's commands -/

/-- A state with `n` entries in the origin queue. -/
def queued (n : Nat) (s : State) : State :=
  { s with service := { s.service with origin := List.replicate n ⟨Message.idle, false⟩ } }

/-- P2 named as the service port. -/
def servedByP2 (s : State) : State := { s with settings := { s.settings with servicePort := .p2 } }

theorem test_sendService :
    let send := Instr.sendService .p1
    answers send (cmd 0x10#8 [0, 1, 9] (queued 2 upState)) .done [0#8] = true ∧
    answers send (cmd 0x10#8 [0, 1, 9] (servedByP2 upState)) .notServicePort [] = true ∧
    answers send (cmd 0x10#8 [0, 1, 9] (inLink .answering upState)) .linkDown [] = true ∧
    answers send (cmd 0x10#8 [16, 1, 9] upState) .badParam [] = true ∧
    answers send (cmd 0x10#8 [15, 2, 9] upState) .badParam [] = true ∧
    answers send (cmd 0x10#8 [0, 0, 0x10] upState) .badParam [] = true ∧
    answers send (cmd 0x10#8 [0, 0, 0x13] upState) .badParam [] = true ∧
    answers send (cmd 0x10#8 [0, 1, 9] (queued 3 upState)) .svcFull [] = true := by decide +kernel

/-- An agreer whose AGREE stands unsent in the answer place. -/
def agreeing : State := { upState with
  service := { upState.service with answer := some ⟨⟨0#4, .order, 0x11#8, 0#16⟩, .plan⟩ }
  exchange := { upState.exchange with
    state := .scheduled, side := some .agreer, requester := some .peer, answer := some 0#16 } }

theorem test_sendServiceAnswer :
    let send := Instr.sendServiceAnswer .p1
    answers send (cmd 0x10#8 [0, 1, 9, 0, 0, 1] (queued 4 upState)) .done [0#8] = true ∧
    answers send (cmd 0x10#8 [0, 0, 0x12, 0, 0, 255] upState) .badParam [] = true ∧
    (after send (cmd 0x10#8 [0, 1, 9, 0, 0, 1] agreeing)).exchange.last =
      some ⟨.withdrawn, none, some .peer, 0#8⟩ := by decide +kernel

theorem test_takeReport :
    let r : Report := ⟨Message.idle, 4#8, .b, .held⟩
    let s := { upState with service := { upState.service with reports := [r], overflow := true } }
    answers (.takeReport .p1) (cmd 0x11#8 [] s) .done [0#8, 0#8, 0#8, 0#8, 0#8, 4#8, 1#8, 3#8, 1#8] = true ∧
    (after (.takeReport .p1) (cmd 0x11#8 [] s)).service.overflow = false ∧
    answers (.takeReport .p1) (cmd 0x11#8 [] upState) .empty [0#8] = true ∧
    answers (.takeReport .p1) (cmd 0x11#8 [] (servedByP2 s)) .notServicePort [0#8] = true := by decide +kernel

/-- The MAINT rows with their action bytes. -/
def maintRows : List (Instr × Byte) :=
  [(.maintLoopAll .p1, 1#8), (.maintLoopSlot .p1, 2#8), (.maintLoopClear .p1, 3#8), (.maintBadChecksOn .p1, 4#8),
    (.maintBadChecksOff .p1, 5#8), (.maintBlindOn .p1, 6#8), (.maintBlindOff .p1, 7#8), (.maintClearAll .p1, 8#8)]

theorem test_maint_done :
    maintRows.all (fun r => answers r.1 (cmd 0x12#8 [r.2, 23] upState) .done [0#8]) = true := by decide +kernel
theorem test_maint_refused :
    maintRows.all (fun r => answers r.1 (cmd 0x12#8 [0] upState) .badParam []
      && answers r.1 (cmd 0x12#8 [9] upState) .badParam []
      && answers r.1 (cmd 0x12#8 [r.2] (inLink .answering upState)) .linkDown []
      && answers r.1 (cmd 0x12#8 [r.2] (servedByP2 upState)) .notServicePort []) = true := by decide +kernel
theorem test_maint_loop_slots :
    (after (.maintLoopSlot .p1) (cmd 0x12#8 [2, 23] upState)).service.loopSet[23] = true ∧
    answers (.maintLoopSlot .p1) (cmd 0x12#8 [2, 24] upState) .badParam [] = true ∧
    (after (.maintBadChecksOn .p1) (cmd 0x12#8 [4] upState)).framer.badChecks = true := by decide +kernel

/-! ## The slot plan's commands -/

/-- The exchange OFFERED by P1. -/
def offering (s : State) : State :=
  { s with exchange := { s.exchange with state := .offered, requester := some (.port .p1), offered := some 0#16 } }

/-- A bank adoption pending. -/
def adopting (s : State) : State := { s with exchange := { s.exchange with adopt := some .b1 } }

theorem test_slotAssign :
    let s := chan .out .idle [] upState
    let assign := Instr.slotAssign .p1
    answers assign (cmd 0x20#8 [0, 23, 0] s) .done [1#8, 23#8] = true ∧
    answers assign (cmd 0x20#8 [0, 24, 0] s) .badParam [] = true ∧
    answers assign (cmd 0x20#8 [0, 23, 0] (offering s)) .planBusy [] = true ∧
    answers assign (cmd 0x20#8 [0, 23, 0] (adopting s)) .planBusy [] = true ∧
    answers assign (cmd 0x20#8 [0, 23, 1] s) .notOwner [] = true ∧
    answers assign (cmd 0x20#8 [1, 23, 0] s) .badParam [] = true ∧
    answers assign (cmd 0x20#8 [0, 23, 0] (setShadowEntry s .out 23 (some 0))) .inUse [] = true := by
  decide +kernel
theorem test_slotFree :
    let s := setShadowEntry (chan .out .idle [] upState) .out 23 (some 0)
    let free := Instr.slotFree .p1
    answers free (cmd 0x21#8 [0, 23] s) .done [0#8, 0xFF#8] = true ∧
    answers free (cmd 0x21#8 [2, 23] s) .badParam [] = true ∧
    answers free (cmd 0x21#8 [0, 23] (offering s)) .planBusy [] = true ∧
    answers free (cmd 0x21#8 [0, 22] s) .state [] = true ∧
    answers free (cmd 0x21#8 [0, 23] (setShadowEntry s .out 23 (some 1))) .notOwner [] = true := by
  decide +kernel
theorem test_planRead :
    let s := setShadowEntry upState .out 0 (some 3)
    answers (.planRead .p1) (cmd 0x22#8 [3] s) .done [0xF3#8, 0xFF#8] = true ∧
    answers (.planRead .p1) (cmd 0x22#8 [2] s) .done [0xFF#8] = true ∧
    answers (.planRead .p1) (cmd 0x22#8 [0] s) .done [0xFF#8] = true ∧
    answers (.planRead .p1) (cmd 0x22#8 [1] s) .done [0xF3#8] = true ∧
    answers (.planRead .p1) (cmd 0x22#8 [4] s) .badParam [] = true := by decide +kernel
theorem test_planStatus :
    answers (.planStatus .p1) (cmd 0x25#8 [] (offering upState)) .done [1#8, 0xFF#8, 1#8] = true := by
  decide +kernel

/-- Two banks with matching patterns: channel numbers differ, lead slots do not. -/
theorem test_witness_patterns :
    let a : BankTables := ⟨oneSlot 23 0, oneSlot 0 7⟩
    let b : BankTables := ⟨oneSlot 0 2, oneSlot 23 5⟩
    (∀ i : SlotNo, (a.out[i.val]).bind (leadSlot a.out) = (b.inn[i.val]).bind (leadSlot b.inn)) ∧
    (∀ i : SlotNo, (a.inn[i.val]).bind (leadSlot a.inn) = (b.out[i.val]).bind (leadSlot b.out)) ∧
    offerDigest a = 601#16 ∧ answerDigest b = 601#16 := by decide +kernel

/-! ## The plan exchange -/

theorem test_planSwitch :
    let go := Instr.planSwitch .p1
    answers go (cmd 0x23#8 [] (queued 3 upState)) .done [0#8, 0#8] = true ∧
    answers go (cmd 0x23#8 [] (inLink .synced upState)) .linkDown [] = true ∧
    answers go (cmd 0x23#8 [] (offering upState)) .planBusy [] = true ∧
    answers go (cmd 0x23#8 [] (adopting upState)) .planBusy [] = true ∧
    answers go (cmd 0x23#8 [] (queued 4 upState)) .svcFull [] = true := by decide +kernel
theorem test_planWithdraw :
    let go := Instr.planWithdraw .p1
    answers go (cmd 0x24#8 [] upState) .state [] = true ∧
    answers go (cmd 0x24#8 [] agreeing) .planBusy [] = true ∧
    (after go (cmd 0x24#8 [] (offering upState))).service.origin =
      [⟨⟨0#4, .order, 0x13#8, 0#16⟩, true⟩] ∧
    (let s := { offering upState with service := { upState.service with
        origin := [⟨⟨0#4, .order, 0x10#8, 0#16⟩, true⟩] } }
     offerQueued s = true ∧ (after go (cmd 0x24#8 [] s)).service.origin = []) := by decide +kernel
/-- An OFFER left behind by a schedule, before the offer of the exchange in OFFERED: the younger leaves. -/
theorem test_youngest_offer_leaves :
    let offer (digest : Word) : OriginEntry := ⟨⟨0#4, .order, 0x10#8, digest⟩, true⟩
    let other : OriginEntry := ⟨Message.idle, false⟩
    let s := { offering upState with service := { upState.service with
      origin := [offer 1#16, other, offer 2#16, other] } }
    (endExchange s .withdrawn none false).service.origin = [offer 1#16, other, other] ∧
    (after (.planWithdraw .p1) (cmd 0x24#8 [] s)).service.origin = [offer 1#16, other, other] := by
  decide +kernel
/-- The runs of a bank mismatch up to its confirmation, and its end (R95, R96, R98). -/
theorem test_bank_mismatch :
    let run (n : Nat) (s : State) : State := { s with exchange := { s.exchange with mismatchRun := n } }
    let x (s : State) : Exchange := (compareBank s .b1 .b0).exchange
    (x (run 0 upState)).mismatchRun = 1 ∧ (x (run 0 upState)).mismatch = false ∧
    (x (run 1 upState)).mismatch = true ∧ (x (run 1 upState)).adopt = none ∧
    (x (run 1 upState)).last = some ⟨.mismatch, none, some .peer, 0#8⟩ ∧
    (x (run 1 (offering upState))).last = some ⟨.mismatch, none, some (.port .p1), 0#8⟩ ∧
    (x (run 1 { upState with framer := follow.framer })).adopt = some .b1 ∧
    (x (run 2 (x (run 1 upState) |> fun e => { upState with exchange := e }))).mismatchRun = 2 ∧
    (compareBank (run 2 upState) .b0 .b0).exchange.mismatchRun = 0 := by decide +kernel
theorem test_endExchange :
    (endExchange (offering upState) .timeout none false).exchange.last =
      some ⟨.timeout, none, some (.port .p1), 0#8⟩ ∧
    (endExchange agreeing .peerSwitched none true).exchange.state = .idle := by decide +kernel
theorem test_swapBanks :
    let s := setShadowEntry (setShadowEntry (chan .out .idle [] upState) .out 1 (some 0)) .inn 2 (some 5)
    (swapBanks s).plan.activeTables.inn[2] = some 5 ∧ (swapBanks s).plan.shadowTables.inn[2] = none ∧
    (swapBanks s).plan.shadowTables.out[1] = some 0 := by decide +kernel
/-- An area too small at a swap: the current order ends, an IDLE or HALTED channel halts; R139's halts. -/
theorem test_area_check :
    let wide (s : State) : State := { s with plan := { s.plan with
      bank0 := ⟨Vector.replicate 24 (some 0), Vector.replicate 24 none⟩ } }
    let active := chan .out .active [order 1 none] upState
    let idle := chan .out .idle [] upState
    let t := checkArea (wide active) 0
    checkArea active 0 = active ∧ checkArea upState 0 = upState ∧
    (t.channel 0).halt = some .areaSmall ∧ (t.channel 0).state = .halted ∧
    (t.port .p1).completions = [⟨0, 7#8, .areaSmall, 0, 0#8⟩] ∧ (t.port .p1).holds .halted = true ∧
    ((checkArea (wide idle) 0).channel 0).halt = some .areaSmall ∧
    ((checkArea (wide idle) 0).port .p1).completions = [] ∧
    (let s := cellAt 3 0#16 [0, 5] (chan .out .waiting [order 9 (some 3)] upState)
     ((endAndHalt s 0 .linkLost .linkLost).cell 3).waiters = [5]) := by decide +kernel
/-- An unsent AGREE displaced by the refusal of another offer; a WITHDRAW from the peer. -/
theorem test_displaced_agree :
    let t := offerReceived agreeing 0#16
    t.exchange.last = some ⟨.withdrawn, none, some .peer, 0#8⟩ ∧
    t.service.answer.map Answer.message = some ⟨0#4, .order, 0x12#8, 1#16⟩ ∧
    (let sent := { agreeing with exchange := { agreeing.exchange with target := some 9#8 } }
     (offerReceived sent 0#16).exchange.state = .scheduled) ∧
    (planReceived agreeing ⟨0#4, .order, 0x13#8, 0#16⟩).exchange.state = .idle ∧
    planReceived (offering upState) ⟨0#4, .order, 0x13#8, 0#16⟩ = offering upState := by decide +kernel
theorem test_peerOffer :
    let answer (s : State) : Option Message := (offerReceived s 0#16).service.answer.map Answer.message
    (answer { agreeing with service := upState.service } = some ⟨0#4, .order, 0x12#8, 1#16⟩) ∧
    (answer (offering upState) = some ⟨0#4, .order, 0x12#8, 1#16⟩) ∧
    (answer (inLink .synced upState) = some ⟨0#4, .order, 0x12#8, 1#16⟩) ∧
    (answer (adopting upState) = some ⟨0#4, .order, 0x12#8, 1#16⟩) ∧
    (answer upState = some ⟨0#4, .order, 0x11#8, 0#16⟩) ∧
    ((offerReceived upState 1#16).service.answer.map Answer.message = some ⟨0#4, .order, 0x12#8, 2#16⟩) ∧
    (answer (offering { upState with framer := follow.framer }) = some ⟨0#4, .order, 0x11#8, 0#16⟩) := by
  decide +kernel
/-- The entry into SCHEDULED raises PLAN, and an answer not yet sent is replaced (R48, R82, R86). -/
theorem test_peerOffer_schedules :
    let s := { upState with service := { upState.service with answer := some ⟨Message.idle, .badChecksEcho⟩ } }
    let t := offerReceived s 0#16
    t.exchange.state = .scheduled ∧ (t.port .p3).holds .plan = true ∧
    t.service.answer = some ⟨⟨0#4, .order, 0x11#8, 0#16⟩, .plan⟩ ∧
    (offerReceived (offering s) 0#16).service.answer = some ⟨⟨0#4, .order, 0x12#8, 1#16⟩, .plan⟩ := by
  decide +kernel
theorem test_answerToOffer :
    let s := offering { upState with framer := { upState.framer with cycle := 250#8 } }
    (agreeReceived upState 3#16).exchange.state = .idle ∧
    (agreeReceived s 253#16).exchange.state = .scheduled ∧ (agreeReceived s 10#16).exchange.state = .scheduled ∧
    (agreeReceived s 252#16).exchange.state = .idle ∧ (agreeReceived s 11#16).exchange.state = .idle ∧
    (agreeReceived s 266#16).exchange.state = .idle ∧
    (agreeReceived s 11#16).service.origin = [⟨⟨0#4, .order, 0x13#8, 0#16⟩, true⟩] ∧
    (agreeReceived { s with service := { s.service with
      origin := [⟨⟨0#4, .order, 0x10#8, 0#16⟩, true⟩] } } 11#16).service.origin = [] ∧
    (refuseReceived s 2#16).exchange.last = some ⟨.refused, some .pattern, some (.port .p1), 250#8⟩ := by
  decide +kernel

/-! ## Areas -/

theorem test_shapeArea :
    let shape := Instr.shapeArea .p1
    let s := State.reset.setArea 1 ⟨.free, some .p2, some 10, some 5, 0, 0, 0, none⟩
    answers shape (cmd 0x30#8 [0, 0, 10, 0] s) .done [0x80#8, 0x02#8] = true ∧
    answers shape (cmd 0x30#8 [0, 15, 241, 0] s) .done [64#8, 60#8] = true ∧
    answers shape (cmd 0x30#8 [10, 0, 1, 0] s) .badParam [] = true ∧
    answers shape (cmd 0x30#8 [0, 0, 0, 0] s) .badParam [] = true ∧
    answers shape (cmd 0x30#8 [0, 0, 1, 1] s) .badParam [] = true ∧
    answers shape (cmd 0x30#8 [1, 0, 1, 0] s) .heldElsewhere [] = true ∧
    answers shape (cmd 0x30#8 [0, 0, 1, 0] (chan .out .idle [] s)) .areaBound [] = true ∧
    answers shape (cmd 0x30#8 [0, 255, 2, 0] s) .range [] = true ∧
    answers shape (cmd 0x30#8 [0, 0, 11, 0] s) .overlap [] = true ∧
    answers shape (cmd 0x30#8 [0, 14, 1, 0] s) .overlap [] = true := by decide +kernel
theorem test_witness_shape_rings :
    RingsInRange (cmd 0x30#8 [0, 14, 1, 0] (State.reset.setArea 1 ⟨.free, some .p2, some 10, some 5, 0, 0, 0, none⟩)) := by
  intro n
  fin_cases n
  all_goals first
    | exact ⟨rfl, rfl, rfl⟩
    | exact ⟨by decide, by decide, by decide, by decide, by decide⟩

theorem test_dropArea :
    let drop := Instr.dropArea .p1
    answers drop (cmd 0x31#8 [0] (freeArea upState)) .done [] = true ∧
    (after drop (cmd 0x31#8 [0] (freeArea upState))).area 0 = Area.undefined ∧
    answers drop (cmd 0x31#8 [10] upState) .badParam [] = true ∧
    answers drop (cmd 0x31#8 [9] upState) .areaUndefined [] = true ∧
    answers drop (cmd 0x31#8 [0] (upState.setArea 0 ⟨.free, some .p3, some 0, some 1, 0, 0, 0, none⟩))
      .heldElsewhere [] = true ∧
    answers drop (cmd 0x31#8 [0] (chan .out .idle [] upState)) .areaBound [] = true := by decide +kernel
theorem test_clearArea :
    let clear := Instr.clearArea .p1
    answers clear (cmd 0x32#8 [0] (filled 64 (chan .out .halted [] upState))) .done [64#8, 0#8] = true ∧
    answers clear (cmd 0x32#8 [0] (filled 64 (chan .out .active [order 1 none] upState))) .state [] = true ∧
    answers clear (cmd 0x32#8 [10] upState) .badParam [] = true ∧
    answers clear (cmd 0x32#8 [9] upState) .areaUndefined [] = true ∧
    answers clear (cmd 0x32#8 [0] (upState.setArea 0 ⟨.free, some .p3, some 0, some 1, 0, 0, 0, none⟩))
      .heldElsewhere [] = true := by decide +kernel
theorem test_areaStatus :
    answers (.areaStatus .p1) (cmd 0x33#8 [0] (filled 64 (chan .out .idle [] upState))) .done
      [2#8, 1#8, 0#8, 1#8, 0#8, 0#8, 0#8, 64#8, 0#8, 0#8, 0#8, 0#8, 0#8, 64#8, 0#8, 0#8, 0#8] = true ∧
    answers (.areaStatus .p1) (cmd 0x33#8 [9] upState) .done [0#8, 0#8, 0#8, 0#8, 0#8, 0xFF#8, 3#8] = true ∧
    answers (.areaStatus .p1) (cmd 0x33#8 [10] upState) .badParam [] = true := by decide +kernel

/-- A ring about to wrap: read and write position 63, holding nothing. -/
def wrapping (s : State) : State := s.setArea 0 { s.area 0 with readPos := 63, writePos := 63 }

theorem test_dataWindows :
    let out := wrapping (chan .out .idle [] upState)
    let write (c : ChannelNo) (s : State) : State := after (.dataWindowWrite .p1 c ⟨1#8, true, true⟩) s
    let readOne (s : State) : State := after (.dataWindowRead .p1 ⟨0, true, true⟩) s
    let one := after (.dataWindowWrite .p1 0 ⟨0xA5#8, true, true⟩) out
    let read := after (.dataWindowRead .p1 ⟨0, true, false⟩)
      { one with channels := (chan .inn .idle [] upState).channels }
    one.pool = [(63, 0xA5#8)] ∧ (one.area 0).writePos = 0 ∧ (one.area 0).fill = 1 ∧
    (read.port .p1).sdo = some 0xA5#8 ∧ (read.area 0).readPos = 0 ∧ (read.area 0).fill = 0 ∧
    (read.port .p1).transaction = .taken 0x86#8 ∧ ((readOne read).port .p1).sdo = none ∧
    (read.port .p1).sent = [0xA5#8] ∧
    ((after (.dataWindowRead .p1 ⟨0, false, true⟩) read).port .p1).sent = [0xA5#8, 0#8] ∧
    ((readOne read).port .p1).sent = [0#8] ∧
    after (.dataWindowRead .p1 ⟨0, false, false⟩) one = one ∧
    ((write 0 (filled 64 out)).port .p1).holds .dataSpill = true ∧
    ((readOne (chan .inn .idle [] upState)).port .p1).holds .dataSpill = true ∧
    ((write 1 out).port .p1).holds .access = true ∧
    ((after (.dataWindowWrite .p2 0 ⟨1#8, true, true⟩) out).port .p2).holds .access = true ∧
    ((readOne out).port .p1).holds .access = true := by decide +kernel

/-- The bytes of a transaction on the line. -/
def wire (bytes : List Byte) : List Bool := bytes.flatMap byteBits

/-- The rows of transactions, with a byte left incomplete at the end (R155, R156, R172). -/
theorem test_transaction_rows :
    transactionRows .p1 (wire [0x00#8, 0x40#8]) = [.commandWrite .p1 [0x40#8]] ∧
    transactionRows .p1 (wire [0x00#8, 0x40#8, 1#8] ++ [true]) = [.commandWrite .p1 [0x40#8, 1#8]] ∧
    transactionRows .p1 (wire [0x02#8, 3#8]) = [] ∧
    transactionRows .p1 (wire [0x02#8, 3#8, 9#8]) = [.parameterWrite .p1 3#8 [9#8]] ∧
    transactionRows .p1 (wire [0x04#8, 1#8]) = [.eventsWrite .p1 [1#8]] ∧
    transactionRows .p1 (wire [0x05#8, 1#8, 2#8]) = [.maskWrite .p1 [1#8, 2#8]] ∧
    transactionRows .p1 (wire [0x81#8, 0#8]) = [] ∧ transactionRows .p1 (List.replicate 7 true) = [] ∧
    transactionRows .p1 (wire [0x8E#8]) = [.noTargetAccess .p1 0x8E#8 []] ∧
    transactionRows .p2 (wire [0x0D#8, 1#8, 2#8] ++ List.replicate 7 true) =
      [.dataWindowWrite .p2 7 ⟨1#8, true, false⟩, .dataWindowWrite .p2 7 ⟨2#8, false, true⟩] ∧
    transactionRows .p2 (wire [0x86#8, 0#8] ++ [true]) =
      [.dataWindowRead .p2 ⟨0, true, false⟩, .dataWindowRead .p2 ⟨0, false, true⟩] := by decide +kernel
theorem test_headers_of_windows :
    accessOf 0x8D#8 = .read (.data 7) ∧ accessOf 0x06#8 = .write (.data 0) ∧ accessOf 0x0E#8 = .noTarget ∧
    [Window.command, .parameter, .events, .mask, .data 0, .data 7].all
      (fun w => accessOf (writeHeader w) == .write w) = true ∧
    [Window.status, .parameter, .result, .events, .mask, .data 0, .data 7].all
      (fun w => accessOf (readHeader w) == .read w) = true := by decide +kernel
/-- MASK is fixed byte by byte, STATUS and EVENTS at the first byte, a data window as its rows send it. -/
theorem test_shifted_out :
    let s := cmd 0x41#8 [5, 6] upState
    let t := { s.setPort .p1 { s.port .p1 with mask := 0x1234#16, events := 0x0203#16, code := 9#8 } with
      channels := (chan .inn .idle [] upState).channels }
    let full := filled 1 { t with areas := (chan .inn .idle [] upState).areas, pool := [(0, 0xA5#8)] }
    shiftedOut .p1 0x81#8 0#8 (List.replicate 5 s) = [0#8, 0x40#8, 0x41#8, 0#8, 0#8, 0#8] ∧
    shiftedOut .p1 0x81#8 0#8 [s, t] = [0#8, 0x40#8, 0x41#8] ∧
    shiftedOut .p1 0x82#8 1#8 [s, s] = [0#8, 0#8, 6#8, 0#8] ∧
    shiftedOut .p1 0x82#8 200#8 [s] = [0#8, 0#8, 0#8] ∧
    shiftedOut .p1 0x84#8 0#8 [t, s, t] = [0#8, 3#8, 2#8, 0#8] ∧
    shiftedOut .p1 0x85#8 0#8 [t, s, t] = [0#8, 0x34#8, 0#8, 0#8] ∧
    shiftedOut .p1 0x86#8 0#8 [full, s] = [0#8, 0xA5#8, 0#8] ∧
    shiftedOut .p1 0x80#8 0#8 [s, s] = [0#8, 0#8, 0#8] := by decide +kernel

/-! ## Channels and orders -/

theorem test_openChannel :
    let go := Instr.openChannel .p1
    let s := freeArea upState
    let full (s : State) : State := { s with plan := { s.plan with
      bank0 := ⟨Vector.replicate 24 (some 7), Vector.replicate 24 none⟩ } }
    answers go (cmd 0x40#8 [7, 0, 0] s) .done [0#8, 0xFF#8, 0#8, 0#8] = true ∧
    (after go (cmd 0x40#8 [7, 0, 0] s)).area 0 = ⟨.bound, some .p1, some 0, some 1, 0, 0, 0, some 7⟩ ∧
    answers go (cmd 0x40#8 [8, 0, 0] s) .badParam [] = true ∧
    answers go (cmd 0x40#8 [7, 2, 0] s) .badParam [] = true ∧
    answers go (cmd 0x40#8 [7, 0, 10] s) .badParam [] = true ∧
    answers go (cmd 0x40#8 [0, 0, 0] (chan .out .idle [] s)) .owned [] = true ∧
    answers go (cmd 0x40#8 [7, 0, 1] s) .areaUndefined [] = true ∧
    answers go (cmd 0x40#8 [7, 0, 1] (s.setArea 1 ⟨.free, some .p3, some 0, some 1, 0, 0, 0, none⟩))
      .heldElsewhere [] = true ∧
    answers go (cmd 0x40#8 [7, 0, 0] (chan .out .idle [] s)) .areaBound [] = true ∧
    answers go (cmd 0x40#8 [7, 0, 0] (full s)) .areaSmall [] = true ∧
    answers go (cmd 0x40#8 [7, 1, 0] (full s)) .done [0#8, 0xFF#8, 0#8, 24#8] = true := by decide +kernel

/-- Channel 1 open for P2. -/
def foreignChannel (s : State) : State := s.setChannel 1 ⟨.idle, some .p2, some .out, some 1, [], none, false⟩

theorem test_own_channel_checks :
    [(Instr.closeChannel .p1, 0x41#8, [0#8, 0#8]), (.postOrder .p1, 0x42#8, [0#8, 0#8, 1#8, 0#8, 0xFF#8, 15#8]),
      (.abortCurrent .p1, 0x43#8, [0#8, 0#8]), (.abortAll .p1, 0x43#8, [0#8, 1#8]), (.resume .p1, 0x44#8, [0#8])].all
      (fun r =>
        answers r.1 (cmd r.2.1 (8#8 :: r.2.2.tail) upState) .badParam []
          && answers r.1 (cmd r.2.1 (7#8 :: r.2.2.tail) upState) .state []
          && answers r.1 (cmd r.2.1 (1#8 :: r.2.2.tail) (foreignChannel upState)) .notOwner []) = true := by
  decide +kernel

/-- An open OUT channel 0, WAITING on cell 3 with a second order behind. -/
def waitingChannel : State :=
  cellAt 3 0#16 [0, 5] (chan .out .waiting [order 9 (some 3), order 1 none] upState)

theorem test_closeChannel :
    let close := Instr.closeChannel .p1
    let s := cmd 0x41#8 [0] waitingChannel
    answers close s .done [2#8] = true ∧ (after close s).channel 0 = Channel.closed ∧
    ((after close s).port .p1).completions.map CompletionRecord.outcome = [.aborted, .aborted] ∧
    ((after close s).cell 3).waiters = [5] ∧ ((after close s).area 0).state = .free ∧
    (let named := setShadowEntry s .inn 23 (some 0)
     answers close (offering named) .planBusy [] = true ∧ answers close (adopting named) .planBusy [] = true ∧
     answers close named .done [2#8] = true ∧ (after close named).plan.shadowTables.inn[23] = none) ∧
    (after close (offering s)).plan.pendingClear[0] = true := by decide +kernel

theorem test_postOrder :
    let post := Instr.postOrder .p1
    let idle := chan .out .idle [] upState
    let ps : List Byte := [0, 7, 1, 0, 0xFF, 0xFF]
    let gated : List Byte := [0, 7, 1, 0, 3, 0xFF]
    answers post (cmd 0x42#8 ps idle) .done [1#8, 15#8] = true ∧
    ((after post (cmd 0x42#8 ps idle)).channel 0).state = .active ∧
    ((after post (cmd 0x42#8 gated idle)).channel 0).state = .waiting ∧
    ((after post (cmd 0x42#8 gated idle)).cell 3).waiters = [0] ∧
    ((after post (cmd 0x42#8 gated (cellAt 3 1#16 [] idle))).channel 0).state = .active ∧
    ((after post (cmd 0x42#8 gated (cellAt 3 1#16 [] idle))).cell 3).value = 0#16 ∧
    answers post (cmd 0x42#8 [0, 7, 0, 0, 0xFF, 0xFF] idle) .badParam [] = true ∧
    [[7, 1, 1, 0, 16, 0xFF], [7, 1, 1, 0, 0xFF, 254]].all (fun (ps : List Byte) =>
      answers post (cmd 0x42#8 ps idle) .badParam []) = true ∧
    answers post (cmd 0x42#8 ps (chan .out .active (List.replicate 4 (order 1 none)) upState)) .queueFull [] = true ∧
    answers post (cmd 0x42#8 ps (chan .out .active (List.replicate 3 (order 1 none)) upState)) .done [4#8, 15#8]
      = true ∧
    answers post (cmd 0x42#8 ps (idle.setPort .p1 { idle.port .p1 with orderCount := 16 })) .noRoom [] = true ∧
    answers post (cmd 0x42#8 ps (idle.setPort .p1 { idle.port .p1 with orderCount := 15 })) .done [1#8, 0#8]
      = true := by decide +kernel

theorem test_abort :
    let current := Instr.abortCurrent .p1
    let all := Instr.abortAll .p1
    answers current (cmd 0x43#8 [0, 0] waitingChannel) .done [1#8] = true ∧
    ((after current (cmd 0x43#8 [0, 0] waitingChannel)).channel 0).state = .active ∧
    answers all (cmd 0x43#8 [0, 1] waitingChannel) .done [2#8] = true ∧
    ((after all (cmd 0x43#8 [0, 1] waitingChannel)).channel 0).state = .idle ∧
    ((after all (cmd 0x43#8 [0, 1] (chan .out .halted [order 1 none] upState))).channel 0).state = .halted ∧
    answers current (cmd 0x43#8 [0, 0] (chan .out .halted [order 1 none] upState)) .state [] = true ∧
    answers current (cmd 0x43#8 [0, 2] waitingChannel) .badParam [] = true ∧
    answers all (cmd 0x43#8 [0, 2] waitingChannel) .badParam [] = true ∧
    (let gated := chan .out .active [order 9 none, order 1 (some 3)] upState
     answers current (cmd 0x43#8 [0, 0] gated) .done [1#8] = true ∧
     ((after current (cmd 0x43#8 [0, 0] gated)).cell 3).waiters = [0] ∧
     ((after current (cmd 0x43#8 [0, 0] (cellAt 3 1#16 [] gated))).channel 0).state = .active) := by
  decide +kernel

theorem test_resume :
    let go := Instr.resume .p1
    let halted (q : List Order) : State := chan .out .halted q upState
    answers go (cmd 0x44#8 [0] (halted [])) .done [1#8] = true ∧
    answers go (cmd 0x44#8 [0] (halted [order 1 none])) .done [3#8] = true ∧
    answers go (cmd 0x44#8 [0] (halted [order 1 (some 3)])) .done [2#8] = true ∧
    answers go (cmd 0x44#8 [0] (cellAt 3 5#16 [] (halted [order 1 (some 3)]))) .done [3#8] = true ∧
    (after go (cmd 0x44#8 [0] (cellAt 3 5#16 [] (halted [order 1 (some 3)])))).cell 3 = ⟨4#16, []⟩ ∧
    answers go (cmd 0x44#8 [0] (chan .out .idle [] upState)) .state [] = true ∧
    answers go (cmd 0x44#8 [0] { halted [] with plan := { upState.plan with
      bank0 := ⟨Vector.replicate 24 (some 0), Vector.replicate 24 none⟩ } }) .areaSmall [] = true := by
  decide +kernel

theorem test_channelStatus :
    answers (.channelStatus .p1) (cmd 0x45#8 [0] waitingChannel) .done
      [2#8, 1#8, 0#8, 0#8, 0#8, 0#8, 0#8, 0xFF#8, 0#8, 2#8, 7#8, 9#8, 0#8, 0#8, 0#8, 3#8, 0xFF#8, 7#8] = true ∧
    answers (.channelStatus .p1) (cmd 0x45#8 [8] waitingChannel) .badParam [] = true ∧
    (waitingChannel.channel 7).direction = none ∧
    (after (.channelStatus .p1) (cmd 0x45#8 [7] waitingChannel)).freeNext = 3 := by decide +kernel
theorem test_takeCompletion :
    let r : CompletionRecord := ⟨7, 1#8, .short, 513, 9#8⟩
    let s := upState.setPort .p1 { upState.port .p1 with completions := [r], orderCount := 4 }
    answers (.takeCompletion .p1) (cmd 0x46#8 [] s) .done [7#8, 1#8, 2#8, 1#8, 2#8, 9#8, 0#8, 12#8] = true ∧
    answers (.takeCompletion .p1) (cmd 0x46#8 [] upState) .empty [0#8, 0#8, 0#8, 0#8, 0#8, 0#8, 0#8, 16#8] = true := by
  decide +kernel
theorem test_orderEnd :
    let o : Order := ⟨7#8, 9, 9, none, some 4⟩
    let s := chan .out .active [o] upState
    ((endHead s 0 .done).cell 4).value = 1#16 ∧ ((endHead s 0 .overrun).cell 4).value = 0#16 ∧
    ((endHead (cellAt 4 0xFFFF#16 [] s) 0 .short).cell 4).value = 0xFFFF#16 ∧
    (endHead (cellAt 4 0#16 [5] s) 0 .done).cell 4 = ⟨0#16, []⟩ ∧
    ((endHead (cellAt 4 0#16 [5] s) 0 .done).channel 5).state = .active ∧
    ((endHead s 0 .done).port .p1).holds .completion = true := by decide +kernel

/-- The next order becomes current after the end of one: idle, at once, waiting, by a take (R123, R127). -/
theorem test_next_order :
    let ended (rest : List Order) (v : Word) : State :=
      endAndAdvance (cellAt 3 v [] (chan .out .active (order 1 none :: rest) upState)) 0 .done
    ((ended [] 0#16).channel 0).state = .idle ∧ ((ended [order 2 none] 0#16).channel 0).state = .active ∧
    ((ended [order 2 (some 3)] 0#16).channel 0).state = .waiting ∧
    (ended [order 2 (some 3)] 0#16).cell 3 = ⟨0#16, [0]⟩ ∧
    ((ended [order 2 (some 3)] 2#16).channel 0).state = .active ∧
    (ended [order 2 (some 3)] 2#16).cell 3 = ⟨1#16, []⟩ := by decide +kernel

/-! ## Cells -/

theorem test_cells :
    let at5 (v : Word) : State := cellAt 15 v [] upState
    answers (.cellRead .p1) (cmd 0x50#8 [15] (at5 5#16)) .done [5#8, 0#8, 5#8, 0#8, 0#8, 0#8] = true ∧
    answers (.cellSet .p1) (cmd 0x51#8 [15, 2, 1] (at5 5#16)) .done [5#8, 0#8, 2#8, 1#8, 0#8, 0#8] = true ∧
    answers (.cellExchange .p1) (cmd 0x52#8 [15, 0, 0] (at5 5#16)) .done [5#8, 0#8, 0#8, 0#8, 0#8, 3#8] = true ∧
    answers (.cellAdd .p1) (cmd 0x53#8 [15, 1, 0] (at5 0xFFFF#16)) .done [0xFF#8, 0xFF#8, 0#8, 0#8, 0#8, 3#8] = true ∧
    answers (.cellTake .p1) (cmd 0x54#8 [15] (at5 0#16)) .done [0#8, 0#8, 0#8, 0#8, 0#8, 3#8] = true ∧
    answers (.cellTake .p1) (cmd 0x54#8 [15] (at5 1#16)) .done [1#8, 0#8, 0#8, 0#8, 0#8, 1#8] = true ∧
    answers (.cellTestClear .p1) (cmd 0x55#8 [15, 15] (at5 0x8000#16)) .done [0#8, 0x80#8, 0#8, 0#8, 0#8, 3#8] = true ∧
    answers (.cellSetBit .p1) (cmd 0x56#8 [15, 15] (at5 0#16)) .done [0#8, 0#8, 0#8, 0x80#8, 0#8, 0#8] = true ∧
    answers (.cellSet .p1) (cmd 0x51#8 [15, 2, 0] (cellAt 15 0#16 [3, 2, 1] upState)) .done
      [0#8, 0#8, 0#8, 0#8, 2#8, 1#8] = true := by decide +kernel
theorem test_cells_out_of_range :
    [(Instr.cellRead .p1, 0x50#8), (.cellSet .p1, 0x51#8), (.cellExchange .p1, 0x52#8), (.cellAdd .p1, 0x53#8),
      (.cellTake .p1, 0x54#8), (.cellTestClear .p1, 0x55#8), (.cellSetBit .p1, 0x56#8)].all
      (fun r => answers r.1 (cmd r.2 [16] upState) .badParam []) = true ∧
    answers (.cellTestClear .p1) (cmd 0x55#8 [15, 16] upState) .badParam [] = true ∧
    answers (.cellSetBit .p1) (cmd 0x56#8 [15, 16] upState) .badParam [] = true := by decide +kernel
theorem test_gate_rule :
    let s := cellAt 0 2#16 [3, 2, 1] upState
    (s.cell 0).waiters.Nodup ∧ (gateRule s 0).2 = 2 ∧ (gateRule s 0).1.cell 0 = ⟨0#16, [1]⟩ ∧
    (gateRule (cellAt 0 0#16 [3] upState) 0).2 = 0 := by decide +kernel
theorem test_watches :
    let watching := upState.setPort .p2 { upState.port .p2 with watch := 0x8000#16 }
    (watching.writeCell 15 0#16).ports = watching.ports ∧
    ((watching.writeCell 15 1#16).port .p2).changed = 0x8000#16 ∧
    ((watching.writeCell 15 1#16).port .p2).holds .cell = true ∧
    ((watching.writeCell 14 1#16).port .p2).changed = 0#16 ∧
    answers (.cellWatch .p1) (cmd 0x57#8 [0, 0] upState) .done [0#8, 0#8, 0#8, 0#8, 0#8, 1#8] = true ∧
    answers (.cellsChanged .p1) (cmd 0x58#8 [] (upState.setPort .p1 { upState.port .p1 with changed := 0x8001#16 }))
      .done [1#8, 0x80#8, 0#8, 0#8, 0#8, 0#8] = true := by decide +kernel

/-! ## Settings, the port reset and the transactions -/

theorem test_settings :
    let heard := { State.reset with
      link := { State.reset.link with wakeHeard := true }
      settings := { State.reset.settings with autoAnswer := false } }
    let write := Instr.settingsWrite .p1
    answers (.settingsRead .p1) (cmd 0x60#8 [0] upState) .done [0#8, 2#8, 1#8, 1#8, 0#8, 0#8] = true ∧
    answers (.settingsRead .p1) (cmd 0x60#8 [2] upState) .badParam [] = true ∧
    answers write (cmd 0x60#8 [2] upState) .badParam [] = true ∧
    answers write (cmd 0x60#8 [1, 1, 0, 3, 255, 1, 2] State.reset) .done [1#8, 0#8, 3#8, 1#8, 1#8, 2#8] = true ∧
    answers write (cmd 0x60#8 [1, 0, 0, 1] (inLink .waking State.reset)) .linkBusy [] = true ∧
    [[1#8, 2#8, 0#8, 1#8], [1#8, 0#8, 3#8, 1#8], [1#8, 0#8, 0#8, 0#8], [1#8, 0#8, 0#8, 4#8]].all
      (fun ps => answers write (cmd 0x60#8 ps State.reset) .badParam []) = true ∧
    (after write (cmd 0x60#8 [1, 0, 0, 1, 1] heard)).link.state = .answering := by decide +kernel

theorem test_portReset :
    let s := cmd 0x7F#8 [] waitingChannel
    let t := after (.portReset .p1) s
    answers (.portReset .p1) s .done [] = true ∧ t.channel 0 = Channel.closed ∧ t.area 0 = Area.undefined ∧
    (t.cell 3).waiters = [5] ∧ (t.port .p1).completions = [] ∧ t.link.state = .leaving ∧
    (after (.portReset .p1) (offering s)).plan.pendingClear[0] = true := by decide +kernel

theorem test_commandWrite :
    let q (i : Instr) (s : State) : PortState := (after i s).port .p1
    let busy := cmd 0x41#8 [] upState
    (q (.commandWrite .p1 [0x40#8, 0x41#8]) upState).code = 0x40#8 ∧
    (q (.commandWrite .p1 [0x40#8]) upState).command = .pending ∧
    (q (.commandWrite .p1 [0x40#8]) busy).holds .cmdOverrun = true ∧
    (q (.commandWrite .p1 [0x7F#8]) busy).code = 0x7F#8 := by decide +kernel
theorem test_parameterWrite :
    let q (i : Instr) (s : State) : PortState := (after i s).port .p1
    (q (.parameterWrite .p1 23#8 [1#8, 2#8]) upState).parameters[23] = 1#8 ∧
    (q (.parameterWrite .p1 24#8 [1#8]) upState).parameters = Vector.replicate 24 0#8 ∧
    (q (.parameterWrite .p1 0#8 [1#8]) (cmd 0x41#8 [] upState)).holds .cmdOverrun = true := by decide +kernel
theorem test_events_and_mask :
    let s := upState.setPort .p1 { upState.port .p1 with events := 0x2001#16 }
    ((after (.eventsWrite .p1 [1#8, 0#8]) s).port .p1).events = 0x2000#16 ∧
    (s.port .p1).sdo = none ∧ after (.eventsWrite .p1 [1#8]) s = s ∧ after (.maskWrite .p1 [1#8]) s = s ∧
    ((after (.maskWrite .p1 [0xFF#8, 0xFF#8]) s).port .p1).mask = 0x3FFF#16 ∧
    ((after (.maskWrite .p1 [0#8, 0x20#8]) s).port .p1).interruptAsserted = true ∧
    (s.port .p1).interruptAsserted = false ∧
    (s.port .p1).events &&& eventBits = 0x2001#16 := by decide +kernel
theorem test_noTargetAccess :
    let q (h : Byte) (data : List Byte) : PortState := (after (.noTargetAccess .p1 h data) upState).port .p1
    (q 0x8E#8 [0#8]).holds .access = true ∧ (q 0x03#8 [0#8]).holds .access = true ∧
    (q 0x03#8 []).holds .access = false ∧ (q 0x01#8 []).holds .access = true ∧
    after (.noTargetAccess .p1 0x00#8 []) upState = upState := by decide +kernel

/-! ## Frames -/

/-- The Follow end in UP with the received frame `f` due and the outbound frame before it begun. -/
def followAt (f : FrameNo) : State :=
  inLink .up { follow with framer := { follow.framer with framed := true, dueFrame := f, outFrame := f - 1 } }

/-- The outbound frame before `f` begun, at the Clock end. -/
def beforeFrame (f : FrameNo) (s : State) : State := { s with framer := { s.framer with outFrame := f - 1 } }

/-- The marker and the service byte that the line carries. -/
def onLine (s : State) : Option (Byte × Byte) :=
  match s.framer.line with
  | .frame m _ v => some (m, v)
  | _ => none

/-- The byte of a slot on the line. -/
def lineByte (s : State) (n : Fin 96) : Option Byte :=
  match s.framer.line with
  | .frame _ p _ => some p[n.val]
  | _ => none

theorem test_frame_starts :
    let start := Instr.outboundFrameStart rising
    let clock := after start (beforeFrame 0 upState)
    clock.framer.outFrame = 0 ∧ clock.framer.cycle = 1#8 ∧ onLine clock = some (0x2D#8, 0#8) ∧
    (after start (followAt 3)).framer.outFrame = 3 ∧
    (after start { followAt 3 with framer := { (followAt 3).framer with dueFrame := 4 } }).framer.outFrame = 2 ∧
    (after start (beforeFrame 1 State.reset)).framer.line = .quiet := by decide +kernel

theorem test_looped_slots :
    let start := Instr.outboundFrameStart rising
    let looped := { upState with
      service := { upState.service with loopSet := noLoops.set 23 true }
      framer := { upState.framer with lastHanded := some (Vector.replicate 96 0x5A#8) } }
    lineByte (after start looped) 95 = some 0x5A#8 ∧ lineByte (after start looped) 91 = some 0#8 ∧
    lineByte (after start (inLink .resync looped)) 95 = some 0#8 := by decide +kernel

theorem test_service_bytes :
    let start (f : FrameNo) (s : State) : Option Byte := (onLine (after (.outboundFrameStart rising)
      (beforeFrame f s))).map Prod.snd
    let s := { upState with
      framer := { upState.framer with
        positionMessage := ⟨15#4, .value, 9#8, 0x1234#16⟩, statusCycle := 7#8, statusFlags := 0x0C#8
        lastCheck := 0x1D0F#16, checkField := 0xE2F0#16, badChecks := true, farErrorToSend := true }
      link := { upState.link with leavingCount := some 3 } }
    start 1 s = some 9#8 ∧ start 2 s = some 0x34#8 ∧ start 3 s = some 0x12#8 ∧
    start 4 s = some 0x49#8 ∧ start 5 s = some 7#8 ∧ start 7 s = some 9#8 ∧ start 9 s = some 0x12#8 ∧
    start 10 s = some 0xF0#8 ∧ start 11 s = some 0xE2#8 ∧
    (after (.outboundFrameStart rising) (beforeFrame 5 s)).framer.farErrorToSend = false ∧
    (after (.outboundFrameStart rising) (beforeFrame 5 s)).link.leavingCount = some 4 := by decide +kernel

/-- A position whose transmit slot has been sent three times, with an answer waiting. -/
theorem test_position_at_frame_six :
    let s := { upState with service := { upState.service with
      hold := 3, answer := some ⟨⟨15#4, .value, 1#8, 2#16⟩, .other⟩ } }
    onLine (after (.outboundFrameStart rising) (beforeFrame 6 s)) = some (0x1B#8, 0xF1#8) := by decide +kernel

/-- The AGREE that enters at the boundary of position B fixes the target there (R47, R87). -/
theorem test_agree_enters_position_b :
    let s := { agreeing with service := { agreeing.service with hold := 3 } }
    (after (.outboundFrameStart rising) (beforeFrame 6 s)).exchange.target = some 16#8 ∧
    (after (.outboundFrameStart rising) (beforeFrame 7 s)).exchange = s.exchange := by decide +kernel

/-- A waiting answer enters at the boundary of position A, and the hold count goes on in position B (R46, R47). -/
theorem test_position_boundaries :
    let s := { upState with service := { upState.service with
      hold := 3, answer := some ⟨⟨15#4, .value, 1#8, 2#16⟩, .other⟩ } }
    let start (f : FrameNo) (s : State) : Service := (after (.outboundFrameStart rising) (beforeFrame f s)).service
    (start 0 s).slot = ⟨15#4, .value, 1#8, 2#16⟩ ∧ (start 0 s).answer = none ∧ (start 0 s).hold = 1 ∧
    (start 6 { s with service := start 0 s }).hold = 2 ∧ start 3 s = s.service ∧
    start 6 (inLink .down s) = s.service := by decide +kernel

/-- What falls due inside the start of frame 0: the timeout withdraws, the READY wait fails the try, and the
swap, the bad-checks start and LEAVING act (R34, R37, R61, R85, R93; log entry 5). -/
theorem test_due_at_frame_start :
    let start (s : State) : State := after (.outboundFrameStart rising) (beforeFrame 0 s)
    let ready (n : Nat) : State := start (inLink .synced { upState with
      link := { upState.link with readyWait := some 49, tryCount := n } })
    (ready 3).link.lastFailure = .readyTimeout ∧ (ready 3).link.tryCount = 4 ∧
    (ready 4).link.lastFailure = .wakeFailed ∧ (ready 5).link.tryCount = 5 ∧
    (ready 5).link.lastFailure = .wakeFailed ∧ ((ready 0).port .p2).holds .link = true ∧
    (start (offering { upState with exchange := { upState.exchange with count := 47 } })).exchange.last =
      some ⟨.timeout, none, some (.port .p1), 1#8⟩ ∧
    (start { upState with exchange := { upState.exchange with
      state := .scheduled, side := some .offerer, target := some 1#8 } }).plan.active = .b1 ∧
    (start { upState with service := { upState.service with badStart := some 3 } }).framer.badChecks = true ∧
    (start (inLink .leaving { upState with
      link := { upState.link with leavingCount := some 4 } })).link.state = .down ∧
    (after (.outboundFrameStart rising) (adopting (followAt 0))).plan.active = .b1 := by decide +kernel

/-- The last cycle start of each count. -/
theorem test_cycle_steps :
    let s := beforeFrame 0 upState
    let ready := inLink .synced { s with link := { s.link with readyWait := some 49 } }
    let leaving := inLink .leaving { s with link := { s.link with leavingCount := some 4 } }
    let bad := { s with service := { s.service with badStart := some 3 } }
    let late := offering { s with exchange := { s.exchange with count := 47 } }
    let scheduled (t : Byte) := { s with exchange := { s.exchange with
      state := .scheduled, side := some .offerer, target := some t } }
    (after (.readyWaitExpiry rising) ready).link.lastFailure = .readyTimeout ∧
    (after (.leavingComplete rising) leaving).link.state = .down ∧
    (after .badChecksStartExpiry bad).framer.badChecks = true ∧
    ((after .planTimeout (offering { s with exchange := { s.exchange with count := 46 } })).exchange.count = 46) ∧
    (after .planTimeout { late with exchange := { late.exchange with count := 47 } }).exchange.last =
      some ⟨.timeout, none, some (.port .p1), 1#8⟩ ∧
    (after (.planSwap rising) (scheduled 1#8)).plan.active = .b1 ∧
    (after (.planSwap rising) (scheduled 2#8)).plan.active = .b0 ∧
    (after (.planSwap rising) (scheduled 17#8)).plan.active = .b0 ∧
    (after (.planSwap rising) (scheduled 18#8)).plan.active = .b1 ∧
    (after (.bankAdoption rising) (adopting (followAt 0))).plan.active = .b1 := by decide +kernel
theorem test_cycle_steps_not_due :
    let s := beforeFrame 0 upState
    [Instr.readyWaitExpiry rising, .leavingComplete rising, .planTimeout, .badChecksStartExpiry, .planSwap rising,
      .bankAdoption rising].all (fun i => after i s == s) = true := by decide +kernel

/-- A received frame with its slots all 0x11. -/
def received (marker : Byte) : Instr := .receivedFrame marker (Vector.replicate 96 0x11#8) 3#8 rising

/-- The frame `f` due with so many bad and good markers before it. -/
def dueAt (f : FrameNo) (bad good : Nat) (s : State) : State :=
  { s with framer := { s.framer with dueFrame := f, badRun := bad, goodRun := good } }

theorem test_received_frames :
    let t := after (received 0x2D#8) (dueAt 0 2 0 (inLink .synced upState))
    t.framer.dueFrame = 1 ∧ t.framer.badRun = 0 ∧ t.framer.receiving.service[0] = 3#8 ∧
    (after (received 0#8) (dueAt 5 1 0 upState)).framer.badRun = 2 ∧
    (after (received 0x1B#8) (dueAt 11 0 2 (inLink .leaving upState))).framer.pendingCheck.isSome = true ∧
    after (received 0x1B#8) State.reset = State.reset ∧
    (let hunting := inLink .aligning { follow with framer := { follow.framer with framed := true, firstCycle := true } }
     (after (received 0x1B#8) (dueAt 5 0 0 hunting)).framer.cycle = 3#8 ∧
     (after (received 0x1B#8) (dueAt 4 0 0 hunting)).framer.cycle = 0#8 ∧
     (after (received 0x1B#8) (dueAt 5 0 0 hunting)).framer.lastHanded = none) ∧
    (after (received 0x1B#8) (followAt 3)).framer.outFrame = 3 := by decide +kernel

theorem test_alignment :
    let lost (s : State) : State := after (received 0#8) (dueAt 5 2 0 s)
    let resync (n : Nat) : State := inLink .resync { upState with link := { upState.link with resyncCount := some n } }
    (lost upState).link.state = .resync ∧
    (lost (inLink .synced upState)).link.lastFailure = .lost ∧
    ((lost (inLink .synced upState)).port .p3).holds .link = true ∧
    (lost (inLink .aligning upState)).framer.framed = false ∧
    (lost (inLink .leaving upState)).framer.dueFrame = 6 ∧
    (lost (inLink .leaving upState)).framer.badRun = 3 ∧
    (lost (lost (inLink .leaving upState))).framer.receiving.service[5] = 3#8 ∧
    (after (received 0x2D#8) (dueAt 0 0 2 (resync 5))).link.state = .leaving ∧
    (after (received 0x2D#8) (dueAt 0 0 2 { resync 5 with link := { (resync 5).link with peerDemand := true } })).link.state
      = .up ∧
    (after (received 0x2D#8) (dueAt 0 0 1 (resync 38))).link.resyncCount = some 39 ∧
    (after (received 0x1B#8) (dueAt 1 0 2 (resync 39))).link.lastFailure = .lost := by decide +kernel

/-- A received cycle with these flags and number. -/
def cycleOf (flags number : Byte) : ReceivedCycle :=
  ⟨((Vector.replicate 12 0#8).set 4 flags).set 5 number, .b0⟩

/-- A check pending over that cycle, and the check field that follows it. -/
def pendingOver (flags number own : Byte) (field : Word) (s : State) : State :=
  { s with framer := { s.framer with
    pendingCheck := some ⟨0x1234#16, cycleOf flags number, own⟩
    receiving := ⟨((Vector.replicate 12 0#8).set 10 (lowByte field)).set 11 (highByte field), .b0⟩ } }

theorem test_message_bytes :
    messageOf 0xF1#8 9#8 0x34#8 0x12#8 = ⟨15#4, .value, 9#8, 0x1234#16⟩ ∧
    messageOf 0x0E#8 1#8 2#8 0#8 = ⟨0#4, .order, 1#8, 2#16⟩ := by decide +kernel
theorem test_decision :
    let good (flags : Byte) (s : State) : State := decideCycle rising (pendingOver flags 9#8 9#8 0x1234#16 s)
    let wrong := pendingOver 0#8 9#8 9#8 0x1235#16 { upState with framer := { upState.framer with nearEnd := 254#8 } }
    decideCycle rising upState = upState ∧
    (decideCycle rising wrong).framer.nearEnd = 255#8 ∧
    (decideCycle rising (decideCycle rising wrong)).framer.nearEnd = 255#8 ∧
    (decideCycle rising { wrong with framer := { wrong.framer with checkBlind := true } }).framer.nearEnd = 254#8 ∧
    (good 0x02#8 (inLink .aligning upState)).link.state = .synced ∧
    (good 0x03#8 (inLink .aligning upState)).link.state = .up ∧
    (good 0x8B#8 (inLink .synced upState)).framer.farEnd = 1#8 ∧
    (good 0x07#8 upState).link.state = .leaving ∧ (good 0x01#8 upState).link.state = .leaving ∧
    (good 0x43#8 upState).link.lastFailure = .roleClash := by decide +kernel
/-- What the entries of an accepted status field write, and FAR_ERROR under bad-checks (R16, R33, R35, R36). -/
theorem test_decision_entries :
    let good (flags : Byte) (s : State) : State := decideCycle rising (pendingOver flags 9#8 9#8 0x1234#16 s)
    let from_ (x : LinkState) : State := inLink x { upState with
      link := { upState.link with alignTimer := true, readyWait := some 7, tryCount := 3 } }
    let told : Link := { (from_ .up).link with peerDemand := true }
    (good 0x02#8 (from_ .aligning)).link =
      { told with state := .synced, alignTimer := false, readyWait := some 0 } ∧
    (good 0x03#8 (from_ .synced)).link = { told with peerReady := true, tryCount := 0, readyWait := none } ∧
    ((good 0x03#8 (from_ .synced)).port .p2).holds .link = true ∧
    ((good 0x02#8 (from_ .aligning)).port .p2).holds .link = false ∧
    (good 0x06#8 (from_ .synced)).link =
      { told with state := .leaving, leavingCount := some 0, readyWait := none } ∧
    (good 0x0A#8 { from_ .up with framer := { upState.framer with badChecks := true } }).framer.farEnd = 0#8 := by
  decide +kernel
/-- Frame 11 with a check pending, in UP: the decision is made and the next check is pending. -/
theorem test_last_frame_decides :
    let s := pendingOver 0x02#8 9#8 9#8 0x1100#16 { upState with
      framer := { upState.framer with peerFlags := 0x7F#8, dueFrame := 11 } }
    let t := after (received 0x1B#8) { s with framer := { s.framer with checkBlind := true } }
    t.framer.peerFlags = 0x02#8 ∧ t.framer.dueFrame = 0 ∧ t.framer.pendingCheck.isSome = true ∧
    (after (received 0x1B#8) s).framer.nearEnd = 1#8 ∧
    (t.service.look.map LookRun.length) = some 2 ∧
    (decideCycle rising (pendingOver 0x12#8 9#8 9#8 0x1234#16 upState)).exchange.mismatchRun = 1 ∧
    (decideCycle rising (pendingOver 0x12#8 9#8 9#8 0x1234#16 (inLink .leaving upState))).exchange.mismatchRun = 0 := by
  decide +kernel
theorem test_decision_at_follow :
    let s := { followAt 0 with link := { (followAt 0).link with peerDemand := true } }
    let decided (own : Byte) (run : Nat) : Framer := (decideCycle rising (pendingOver 0x02#8 9#8 own 0x1234#16
      { s with framer := { s.framer with cycle := 40#8, disagreeRun := run } })).framer
    (decided 9#8 1).cycle = 40#8 ∧ (decided 9#8 1).disagreeRun = 0 ∧ (decided 8#8 0).disagreeRun = 1 ∧
    (decided 8#8 1).cycle = 10#8 ∧
    (decideCycle rising (pendingOver 0x02#8 255#8 0#8 0x1234#16 (inLink .aligning s))).framer.cycle = 0#8 := by
  decide +kernel

/-! ## Units -/

/-- An ACTIVE channel 0 with one order of `n` bytes and slot 23 in each direction. -/
def flowing (d : Direction) (n : Nat) (rest : List Order) : State :=
  let s := chan d .active (order n none :: rest) upState
  { s with plan := { s.plan with bank0 := ⟨oneSlot 23 0, oneSlot 23 0⟩ } }

theorem test_units :
    let s (fill n : Nat) : State := { filled fill (flowing .out n []) with pool := [(0, 1#8), (1, 2#8), (2, 3#8)] }
    (formUnit (s 5 9) 0).1 = [3#8, 1#8, 2#8, 3#8] ∧ (formUnit (s 2 9) 0).1 = [2#8, 1#8, 2#8] ∧
    (formUnit (s 5 1) 0).1 = [0x81#8, 1#8] ∧ (formUnit (s 0 1) 0).1 = [0#8] ∧
    ((formUnit (s 5 1) 0).2.channel 0).state = .idle ∧
    formUnit (inLink .synced (s 5 1)) 0 = ([], inLink .synced (s 5 1)) ∧
    (formUnit (setLoops (s 5 1) allLoops) 0).1 = [] := by decide +kernel
/-- A unit over two slots of a channel, in its slots in rising order, and taken from them again (R74, R128). -/
theorem test_units_in_slots :
    let s := { filled 9 (flowing .out 6 []) with pool := (List.range 9).map fun i => (i, byteOf (i + 1)) }
    let two := (oneSlot 23 0).set 3 (some 0)
    let t := after (.outboundFrameStart rising) { s with plan := { s.plan with bank0 := ⟨two, two⟩ } }
    (List.finRange 96).filterMap (fun i => (lineByte t i).bind fun b => if b = 0#8 then none else some (i.val, b)) =
      [(12, 0x86#8), (13, 1#8), (14, 2#8), (15, 3#8), (92, 4#8), (93, 5#8), (94, 6#8)] ∧
    unitBytes two (((Vector.replicate 96 0#8).set 13 1#8).set 92 4#8) 0 =
      [0#8, 1#8, 0#8, 0#8, 4#8, 0#8, 0#8, 0#8] := by decide +kernel
/-- The frame that begins under a loop sets the channel's pause, raises LOOPED and forms no unit; the frame
that begins after it forms one (R128, R131). -/
theorem test_loop_pause_at_frame :
    let s := filled 5 (flowing .out 9 [])
    let start := Instr.outboundFrameStart rising
    let paused := after start (setLoops s allLoops)
    (paused.channel 0).loopPause = true ∧ (paused.port .p1).holds .looped = true ∧ (paused.area 0).fill = 5 ∧
    (after start (setLoops paused noLoops)).channel 0 =
      { s.channel 0 with queue := [{ order 9 none with moved := 3 }] } ∧
    ((after start s).port .p1).holds .looped = false := by decide +kernel
theorem test_witness_unit_rings : RingsInRange (filled 5 (flowing .out 9 [])) := by
  intro n
  fin_cases n
  · exact ⟨by decide +kernel, by decide +kernel, by decide +kernel, by decide +kernel, by decide +kernel⟩
  all_goals exact ⟨by decide +kernel, by decide +kernel, by decide +kernel⟩
theorem test_loop_pause :
    let s := setLoops (flowing .out 9 []) allLoops
    ((updateLoopPause s 0).channel 0).loopPause = true ∧ ((updateLoopPause s 0).port .p1).holds .looped = true ∧
    updateLoopPause (updateLoopPause s 0) 0 = updateLoopPause s 0 ∧
    ((updateLoopPause (setLoops (updateLoopPause s 0) noLoops) 0).channel 0).loopPause = false := by decide +kernel

theorem test_delivery :
    let unit (h : Byte) (s : State) : State := deliverUnit s 0 [h, 1#8, 2#8, 3#8]
    let s := flowing .inn 9 []
    ((unit 4#8 s).port .p1).holds .badUnit = true ∧
    ((unit 3#8 (chan .inn .idle [] upState)).port .p1).holds .unclaimed = true ∧
    (unit 0#8 (chan .inn .idle [] upState)).ports = upState.ports ∧
    (unit 3#8 s).pool = [(0, 1#8), (1, 2#8), (2, 3#8)] ∧ ((unit 3#8 s).area 0).fill = 3 ∧
    ((unit 0x82#8 s).port .p1).completions.map CompletionRecord.outcome = [.short] ∧
    ((unit 3#8 (flowing .inn 3 [])).port .p1).completions.map CompletionRecord.outcome = [.done] ∧
    ((unit 3#8 (flowing .inn 2 [])).port .p1).holds .unclaimed = true ∧
    ((unit 3#8 (flowing .inn 2 [order 5 none])).channel 0).queue = [{ order 5 none with moved := 1 }] ∧
    ((unit 3#8 (filled 62 s)).channel 0).halt = some .overrun ∧ ((unit 3#8 (filled 62 s)).area 0).fill = 64 := by
  decide +kernel

/-- After a swap at the Clock end the frames before the next frame-0 place are read against the old inbound
table, in which channel 0 has a slot, and that frame against the new one, in which it has none (R69, R93, R140;
log entry 30). A second swap before that place keeps the table. -/
theorem test_frames_after_swap :
    let s := swapBanks (flowing .inn 9 [])
    let read (marker : Byte) (f : FrameNo) (s : State) : State := after (received marker) (dueAt f 0 0 s)
    s.plan.receive = .b0 ∧ s.plan.bank0.inn[23] = none ∧ s.plan.retained = some (oneSlot 23 0) ∧
    (swapBanks s).plan.retained = s.plan.retained ∧
    ((read 0x1B#8 5 s).port .p1).holds .badUnit = true ∧ (read 0x1B#8 5 s).plan = s.plan ∧
    ((read 0x2D#8 0 s).port .p1).holds .badUnit = false ∧
    (read 0x2D#8 0 s).plan = { s.plan with receive := .b1, retained := none } ∧
    (announceDown rising s).plan.retained = none := by decide +kernel

/-! ## Tones, timers and the entry into DOWN -/

theorem test_tones :
    let at_ (x : LinkState) : State := inLink x State.reset
    let quiet := { State.reset with settings := { State.reset.settings with autoAnswer := false } }
    let heard := { quiet with link := { quiet.link with wakeHeard := true } }
    let wanted := { heard with link := { heard.link with claims := ⟨false, false, true⟩, tryCount := 4 } }
    (after .wakeHeard State.reset).link.state = .answering ∧
    ((after .wakeHeard quiet).port .p3).holds .wakeSeen = true ∧ after .wakeHeard heard = heard ∧
    (after .wakeHeard (at_ .waking)).link.state = .answering ∧
    (after .wakeHeard (at_ .answering)).link.wakeHeard = true ∧ after .wakeHeard upState = upState ∧
    after .wakeGone quiet = quiet ∧ (after .wakeGone heard).link.wakeHeard = false ∧
    (after .wakeGone wanted).link.state = .waking ∧
    (after .wakeGone { wanted with link := { wanted.link with tryCount := 5 } }).link.state = .down ∧
    (after .answerHeard (at_ .waking)).link.state = .aligning ∧ after .answerHeard upState = upState ∧
    after .answerGone upState = upState := by decide +kernel

theorem test_hunt :
    let s := inLink .aligning follow
    let first (b : Byte) : List Bool := List.replicate 64 true ++ byteBits b
    let next (b : Byte) : List Bool := List.replicate 1016 true ++ byteBits b
    let after_ (n : Nat) (b : Byte) : State := after (.huntMarker (next b)) (setHunt s n)
    (after (.huntMarker (first 0x1B#8)) s).framer.hunt = 1 ∧ (after (.huntMarker (first 0x2D#8)) s).framer.hunt = 0 ∧
    after (.huntMarker (List.replicate 100 true)) s = s ∧
    after (.huntMarker ((next 0x1B#8).take 1023)) (setHunt s 1) = setHunt s 1 ∧
    (after_ 1 0x9B#8).framer.hunt = 0 ∧
    (after_ 10 0x1B#8).framer.hunt = 11 ∧ (after_ 11 0x1B#8).framer.hunt = 1 ∧ (after_ 3 0x2D#8).framer.hunt = 0 ∧
    (after_ 9 0#8).framer.hunt = 0 ∧ (after_ 4 0x2D#8).framer.framed = true ∧
    onLine (after_ 4 0x2D#8) = some (0x2D#8, 0#8) ∧
    (after (.huntMarker (first 0x2D#8)) (inLink .aligning State.reset)).framer.framed = true ∧
    after (.huntMarker (first 0x1B#8)) (inLink .aligning State.reset) = inLink .aligning State.reset ∧
    after (.huntMarker (first 0x2D#8)) upState = upState := by decide +kernel

/-- The bits of a frame, and how an unframed receiver finds a byte among bits (R183). -/
theorem test_line_bits :
    let bits := frameBits 0x2D#8 (Vector.replicate 96 0#8) 3#8
    bits.length = 1024 ∧ bits.take 8 = [false, false, true, false, true, true, false, true] ∧
    findByte (List.replicate 64 true ++ bits) = some 0x2D#8 ∧
    findByte (List.replicate 63 true ++ byteBits 0x1B#8) = none ∧
    findByte (List.replicate 64 true ++ (byteBits 0x1B#8).take 7) = none ∧
    byteAt 64 (List.replicate 64 true ++ byteBits 0x1B#8) = some 0x1B#8 ∧
    byteAt 63 (List.replicate 63 true ++ byteBits 0x1B#8) = none ∧
    byteAt 64 (List.replicate 64 true ++ byteBits 0x9B#8) = none ∧
    pairHalves [true, false] = [true, false, false, true] := by decide +kernel

theorem test_timers :
    let down := { State.reset with link := { State.reset.link with
      claims := ⟨true, false, false⟩, quietGuard := true } }
    let waking (n : Nat) := { State.reset with link := { State.reset.link with
      state := .waking, toneTimer := some .wake, tryTimer := true, tryCount := n } }
    let answering := { State.reset with link := { State.reset.link with
      state := .answering, toneTimer := some .answer } }
    let aligning := { State.reset with link := { State.reset.link with state := .aligning, alignTimer := true } }
    let resync (n : Nat) := inLink .resync { upState with link := { upState.link with resyncCount := some n } }
    (after .quietGuardExpiry down).link.state = .waking ∧ after .quietGuardExpiry State.reset = State.reset ∧
    (after .tryTimerExpiry (waking 0)).link.tryTimer = false ∧ after .tryTimerExpiry State.reset = State.reset ∧
    (after (.wakeToneTimerExpiry rising) (waking 3)).link.lastFailure = .none ∧
    (after (.wakeToneTimerExpiry rising) (waking 4)).link.lastFailure = .wakeFailed ∧
    ((after (.wakeToneTimerExpiry rising) (waking 3)).port .p1).holds .link = false ∧
    after (.wakeToneTimerExpiry rising) answering = answering ∧
    (after .answerToneTimerExpiry answering).link.state = .aligning ∧
    after .answerToneTimerExpiry (waking 0) = waking 0 ∧
    (after (.alignTimerExpiry rising) aligning).link.lastFailure = .alignFailed ∧
    after (.alignTimerExpiry rising) upState = upState ∧
    (after (.resyncLimit rising) (resync 39)).link.lastFailure = .lost ∧
    after (.resyncLimit rising) (resync 38) = resync 38 := by decide +kernel

theorem test_down_entry :
    let s := offering { flowing .inn 9 [order 1 none] with
      framer := { upState.framer with nearEnd := 3#8, lastHanded := some (Vector.replicate 96 1#8) } }
    let t := announceDown rising s
    (t.channel 0).halt = some .linkLost ∧ (t.channel 0).queue = [order 1 none] ∧
    t.exchange.last = some ⟨.linkLost, none, some (.port .p1), 0#8⟩ ∧ t.framer.nearEnd = 0#8 ∧
    (t.port .p1).holds .halted = true ∧
    (t.port .p1).completions = [⟨0, 7#8, .linkLost, 0, 0#8⟩] ∧
    (announceDown rising waitingChannel).cell 3 = ⟨0#16, [5]⟩ ∧
    (let heard := { waitingChannel with link := { waitingChannel.link with wakeHeard := true } }
     (enterDown rising heard).link.state = .answering ∧
     ((enterDown rising { heard with settings := { heard.settings with autoAnswer := false } }).port .p2).holds
       .wakeSeen = true) := by decide +kernel

/-! ## Service messages -/

theorem test_transmit_slot :
    let v := upState.service
    let s (hold : Nat) (answer : Option Answer) (origin : List OriginEntry) : State :=
      { agreeing with service := { v with hold := hold, answer := answer, origin := origin } }
    let m : Message := ⟨15#4, .order, 1#8, 0#16⟩
    let slot (s : State) : Message := (positionBoundary s).service.slot
    slot (s 2 (some ⟨m, .other⟩) []) = Message.idle ∧ slot (s 3 none []) = Message.idle ∧
    slot (s 3 (some ⟨m, .other⟩) [⟨Message.idle, false⟩]) = m ∧
    (positionBoundary (s 3 (some ⟨m, .badChecksEcho⟩) [])).service.badStart = some 0 ∧
    slot (s 3 (some ⟨⟨0#4, .order, 0x11#8, 0#16⟩, .plan⟩) []) = ⟨0#4, .order, 0x11#8, 16#16⟩ ∧
    slot (s 3 (some ⟨⟨0#4, .order, 0x12#8, 1#16⟩, .plan⟩) []) = ⟨0#4, .order, 0x12#8, 1#16⟩ ∧
    (positionBoundary (s 3 (some ⟨⟨0#4, .order, 0x11#8, 0#16⟩, .plan⟩) [])).exchange.target = some 16#8 ∧
    (positionBoundary (s 3 none [⟨m, false⟩])).service.await = [m] ∧
    (positionBoundary (s 3 none [⟨Message.idle, false⟩])).service.await = [] := by decide +kernel

/-- Two looks at a message already made. -/
def looked (m : Message) (s : State) : State :=
  { s with service := { s.service with look := some ⟨m, 2⟩, previous := some m } }

/-- The dispositions reported after one more look at a message seen twice, and the answer it leaves. -/
def confirms (m : Message) (s : State) : List Disposition × Option Message :=
  let t := positionReceived (looked m s) .a 9#8 m
  (t.service.reports.map Report.disposition, t.service.answer.map Answer.message)

theorem test_confirmation_in_auto :
    let o (code : Byte) (arg : Word) : Message := ⟨0#4, .order, code, arg⟩
    let v (code : Byte) (arg : Word) : Message := ⟨15#4, .value, code, arg⟩
    let writable := { upState with settings := { upState.settings with peerWritable := 0x8000#16 } }
    let awaiting (m : Message) : State := { upState with service := { upState.service with await := [m] } }
    confirms (o 0x10#8 0#16) upState = ([.plan], some (o 0x11#8 0#16)) ∧
    confirms (o 1#8 0#16) (awaiting (o 1#8 0#16)) = ([.echo], none) ∧
    confirms ⟨3#4, .value, 1#8, 0#16⟩ upState = ([.foreign], some ⟨3#4, .order, 0#8, 0#16⟩) ∧
    confirms (v 15#8 7#16) writable = ([.executed], some (v 15#8 7#16)) ∧
    confirms (v 14#8 7#16) writable = ([.declined], some ⟨15#4, .order, 6#8, 270#16⟩) ∧
    confirms (v 16#8 7#16) writable = ([.declined], some ⟨15#4, .order, 6#8, 272#16⟩) ∧
    confirms (o 0#8 5#16) upState = ([.noted], none) ∧ confirms (o 6#8 1#16) upState = ([.noted], none) ∧
    confirms (o 1#8 0#16) upState = ([.executed], some (o 1#8 0#16)) ∧
    confirms (o 2#8 23#16) upState = ([.executed], some (o 2#8 23#16)) ∧
    confirms (o 2#8 24#16) upState = ([.declined], some (o 6#8 2#16)) ∧
    confirms (o 3#8 0#16) upState = ([.executed], some (o 3#8 0#16)) ∧
    confirms (o 4#8 0#16) upState = ([.executed], some (o 4#8 0#16)) ∧
    confirms (o 5#8 1#16) upState = ([.declined], some (o 6#8 5#16)) ∧
    confirms (o 5#8 0#16) upState = ([.executed], some (o 5#8 0#16)) ∧
    confirms (o 7#8 0#16) upState = ([.declined], some (o 6#8 7#16)) := by decide +kernel
/-- An echo displaces the unsent AGREE, which ends the schedule WITHDRAWN; another unsent answer is displaced
without more (R48, R88). -/
theorem test_answer_displaces_agree :
    let m : Message := ⟨0#4, .order, 4#8, 0#16⟩
    let t := positionReceived (looked m agreeing) .a 9#8 m
    let declining := { agreeing with service := { agreeing.service with
      answer := some ⟨⟨0#4, .order, 6#8, 2#16⟩, .other⟩ } }
    t.service.answer = some ⟨m, .other⟩ ∧ t.exchange.state = .idle ∧
    t.exchange.last = some ⟨.withdrawn, none, some .peer, 0#8⟩ ∧ (t.port .p2).holds .plan = true ∧
    (positionReceived (looked m declining) .a 9#8 m).exchange = agreeing.exchange := by decide +kernel

theorem test_positions_in_relay :
    let m : Message := ⟨0#4, .value, 1#8, 0#16⟩
    let relay (f : ReportFilter) : State := { upState with settings := { upState.settings with mode := .relay, filter := f } }
    let one (s : State) : List Disposition :=
      (positionReceived s .b 9#8 m).service.reports.map Report.disposition
    one (relay .every) = [.seen] ∧ one (relay .change) = [.seen] ∧ one (relay .confirmed) = [] ∧
    one { relay .change with service := { upState.service with previous := some m } } = [] ∧
    confirms m (relay .confirmed) = ([.held], none) ∧ confirms m (relay .change) = ([], none) ∧
    confirms m (relay .every) = ([.held], none) ∧
    (let waits := { relay .change with service := { upState.service with await := [⟨0#4, .order, 1#8, 0#16⟩] } }
     let decline : Message := ⟨0#4, .order, 6#8, 1#16⟩
     let t := positionReceived { waits with service := { waits.service with look := some ⟨decline, 2⟩ } } .a 9#8 decline
     t.service.await = [] ∧ t.service.reports.map Report.disposition = [.seen]) ∧
    ((positionReceived { relay .every with service := { upState.service with
      reports := List.replicate 8 ⟨m, 0#8, .a, .seen⟩ } } .b 9#8 m).service.overflow = true) := by decide +kernel

end

end Sys2Proof.Tests
end

section
/-! SUPPORT. The frame's check and the counters: the cycle check bit by bit and byte by byte (R9), and what
COUNTERS answers and leaves (R17). -/

namespace Sys2Proof.Machine

open Sys2Proof

/-! ## The cycle check -/

/-- `settled` is application: it steers the evaluation of a long check and does not change its value. -/
@[simp] theorem settled_eq {α : Type} (n : Nat) (k : Nat → α) : settled n k = k n := by
  cases n <;> rfl

/-- The bit shifted out of the register is its bit 15 (R9). -/
theorem checkBit_eq (r : Word) (d : Bool) :
    checkBit r d = if r.getLsbD 15 ≠ d then (r <<< 1) ^^^ 0x1021#16 else r <<< 1 := by
  have shiftedOut : r.msb = r.getLsbD 15 := BitVec.msb_eq_getLsbD_last r
  simp [checkBit, shiftedOut]

@[simp] theorem checkBits_succ (b : Byte) (n : Nat) (r : Word) :
    checkBits b (n + 1) r = checkBits b n (checkBit r (b.getLsbD n)) := by
  simp [checkBits]

/-- The low `n` bits of a byte enter the register from bit `n - 1` down to bit 0 (R9). -/
theorem checkBits_eq_foldl (b : Byte) (n : Nat) (r : Word) :
    checkBits b n r = ((List.range n).reverse.map b.getLsbD).foldl checkBit r := by
  induction n generalizing r with
  | zero => rfl
  | succ n ih => simp [List.range_succ, ih]

/-- A byte enters the register most significant bit first (R9). -/
theorem checkByte_eq_foldl (b : Byte) (r : Word) :
    checkByte b r = [b.getLsbD 7, b.getLsbD 6, b.getLsbD 5, b.getLsbD 4, b.getLsbD 3, b.getLsbD 2,
      b.getLsbD 1, b.getLsbD 0].foldl checkBit r := checkBits_eq_foldl b 8 r

@[simp] theorem checkBytes_cons (b : Byte) (bs : List Byte) (r : Word) :
    checkBytes (b :: bs) r = checkBytes bs (checkByte b r) := by
  simp [checkBytes]

/-- Bytes enter the register in the order of the list (R9). -/
theorem checkBytes_eq_foldl (bs : List Byte) (r : Word) :
    checkBytes bs r = bs.foldl (fun r b => checkByte b r) r := by
  induction bs generalizing r with
  | nil => rfl
  | cons b bs ih => rw [checkBytes_cons, ih, List.foldl_cons]

/-- A frame adds its payload, and its service byte in the frames before the check field's own (R9). -/
theorem checkFrame_eq (f : FrameNo) (payload : Payload) (service : Byte) (r : Word) :
    checkFrame f payload service r =
      checkBytes (if f.val ≤ 9 then payload.toList ++ [service] else payload.toList) r := by
  unfold checkFrame
  split
  · rfl
  · rw [List.append_nil]

/-- The sending side's check takes in the frame that goes out, when one is being computed (R9, R10). -/
theorem sendFrame_outCheck (f : FrameNo) (payload : Payload) (s : State) :
    (sendFrame f payload s).framer.outCheck =
      s.framer.outCheck.map (checkFrame f payload (s.framer.serviceByte f)) := rfl

/-- The receiving side's check takes in the frame that is due (R9, R11). -/
theorem gatherFrame_inCheck (payload : Payload) (service : Byte) (s : State) :
    (gatherFrame payload service s).framer.inCheck =
      checkFrame s.framer.dueFrame payload service s.framer.inCheck := rfl

/-- The check of the digits 1 to 9, a figure that fixes the polynomial, the start and the bit order (R9). -/
theorem checkBytes_digits :
    checkBytes [0x31#8, 0x32#8, 0x33#8, 0x34#8, 0x35#8, 0x36#8, 0x37#8, 0x38#8, 0x39#8] checkStart =
      0x29B1#16 := by decide

/-- Settles O47: the check register's rules for a bit, a byte, bytes and a frame, and the frames that the
two sides give it. -/
theorem checkComputes : Obligations.CheckComputes :=
  ⟨rfl, checkBit_eq, checkByte_eq_foldl, checkBytes_eq_foldl, checkFrame_eq, sendFrame_outCheck,
    gatherFrame_inCheck, checkBytes_digits⟩

/-! ## COUNTERS -/

/-- Both error counters at 0, and nothing else changed (R17). -/
def clearCounters (s : State) : State :=
  { s with framer := { s.framer with nearEnd := 0#8, farEnd := 0#8 } }

/-- A flag parameter asks for nothing exactly when its byte is 0 (R174). -/
@[simp] theorem flagParam_eq_true_iff (b : Byte) : flagParam b = true ↔ b ≠ 0#8 := by
  simp [flagParam]

/-- COUNTERS answers with the counters as they stood before it clears them (R17). -/
theorem counters_reply (p : Port) (s : State) :
    (counters p s).1 = .done [s.framer.nearEnd, s.framer.farEnd] := rfl

/-- COUNTERS clears both counters when its parameter is not 0, and else leaves the state as it is (R17). -/
theorem counters_state (p : Port) (s : State) :
    (counters p s).2 = if param (s.port p) 0 = 0#8 then s else clearCounters s := by
  by_cases asks : param (s.port p) 0 = 0#8
  · simp [counters, asks]
  · simp [counters, asks, clearCounters]

theorem exec_counters (p : Port) (s : State) : exec (.counters p) s = execCounters p s := rfl

/-- COUNTERS taken by the engine, in any link state (R17, R160). -/
theorem exec_counters_taken {p : Port} {s : State} (taken : engineTakes s p 0x04#8 = true) :
    exec (.counters p) s = doneWith p [s.framer.nearEnd, s.framer.farEnd]
      (if param (s.port p) 0 = 0#8 then s else clearCounters s) := by
  rw [exec_counters, execCounters, taken, takeCommand_taken, counters_reply, counters_state, doneWith]

/-- The link states before SYNCED are the resting ones and ALIGNING. -/
theorem LinkState.resting_or_aligning {l : LinkState}
    (h : l = .down ∨ l = .waking ∨ l = .answering ∨ l = .aligning) :
    l.resting = true ∨ l = .aligning := by
  obtain rfl | rfl | rfl | rfl := h
  · exact .inl rfl
  · exact .inl rfl
  · exact .inl rfl
  · exact .inr rfl

/-- In a state that keeps `FramerFollowsLink` both counters are 0 before SYNCED (R15, R16, R20). -/
theorem FramerFollowsLink.counters_zero {s : State} (follows : FramerFollowsLink s)
    (h : s.link.state = .down ∨ s.link.state = .waking ∨ s.link.state = .answering ∨
      s.link.state = .aligning) : s.framer.nearEnd = 0#8 ∧ s.framer.farEnd = 0#8 := by
  obtain ⟨-, zeros⟩ := follows
  exact zeros (LinkState.resting_or_aligning h)

/-- Settles O17: the step by `exec_counters_taken`, the zeros by the framer's invariant. -/
theorem countersReportAndClear : Obligations.CountersReportAndClear :=
  fun _ _ taken => ⟨exec_counters_taken taken, FramerFollowsLink.counters_zero⟩

end Sys2Proof.Machine
end

section
/-! SUPPORT. LINK STATUS: the claim set's byte, the command's answer, and that it leaves the link controller
alone (R43). -/

namespace Sys2Proof.Machine

open Sys2Proof

/-- The claim flags stand in disjoint bits, so joining them is adding their weights (R43, R175). -/
theorem claimBits_eq_sum (c : PerPort Bool) :
    claimBits c =
      byteOf ((if c.p1 then 1 else 0) + (if c.p2 then 2 else 0) + (if c.p3 then 4 else 0)) := by
  have everySet : ∀ a b d : Bool, claimBits ⟨a, b, d⟩ =
      byteOf ((if a then 1 else 0) + (if b then 2 else 0) + (if d then 4 else 0)) := by decide
  exact everySet c.p1 c.p2 c.p3

theorem exec_linkStatus (p : Port) (s : State) : exec (.linkStatus p) s = execLinkStatus p s := rfl

/-- LINK STATUS taken by the engine answers DONE in every link state, and its own action is none (R43,
R160). -/
theorem exec_linkStatus_taken {p : Port} {s : State} (taken : engineTakes s p 0x03#8 = true) :
    exec (.linkStatus p) s = doneWith p (linkStatusResult p s) s := by
  rw [exec_linkStatus, execLinkStatus, taken, takeCommand_taken, doneWith]

/-- Settles O16: the step by `exec_linkStatus_taken`, the claim set's byte by `claimBits_eq_sum`. -/
theorem linkStatusReports : Obligations.LinkStatusReports := by
  intro p s taken
  rw [exec_linkStatus_taken taken, linkStatusResult, claimBits_eq_sum]

end Sys2Proof.Machine
end

section
/-! SUPPORT. The area commands DROP AREA, CLEAR AREA and AREA STATUS: what each answers when its parameter
block names an area, and its refusal when it names none (R105, R106, R107). -/

namespace Sys2Proof.Machine

open Sys2Proof

/-! ## The checks and the record -/

/-- An area is not defined exactly when its state is UNDEFINED (R101). -/
@[simp] theorem Area.isDefined_eq_false_iff (a : Area) : a.isDefined = false ↔ a.state = .undefined := by
  simp [Area.isDefined]

/-- The last check of CLEAR AREA fails exactly on a BOUND area whose channel is ACTIVE (R106). -/
@[simp] theorem boundToActive_eq_true_iff (s : State) (a : Area) :
    boundToActive s a = true ↔
      a.state = .bound ∧ a.channel.any (fun c => (s.channel c).state = .active) = true := by
  cases bound : a.channel with
  | none => simp [boundToActive, bound]
  | some c => simp [boundToActive, bound]

/-- The absent marks of the first block and of the block count stand in disjoint bits, so joining them is
adding their weights (R107, R175). -/
theorem absentMarks_eq_sum (first count : Option Nat) :
    ((if first.isNone then 1#8 else 0#8) ||| (if count.isNone then 2#8 else 0#8)) =
      byteOf ((if first = none then 1 else 0) + (if count = none then 2 else 0)) := by
  have everyPair : ∀ a b : Bool, ((if a then 1#8 else 0#8) ||| (if b then 2#8 else 0#8)) =
      byteOf ((if a then 1 else 0) + (if b then 2 else 0)) := by decide
  simpa using everyPair first.isNone count.isNone

/-- The size counts the bytes of the blocks that the record gives (R101). -/
theorem Area.size_of_some {a : Area} {k : Nat} (counted : a.count = some k) : a.size = 64 * k := by
  simp [Area.size, counted]

/-- A record without a block count has the size 0 (R102, R107). -/
theorem Area.size_of_none {a : Area} (absent : a.count = none) : a.size = 0 := by
  simp [Area.size, absent]

/-- The result of AREA STATUS, field by field: the record, its size and its free space (R107, R175). -/
theorem areaResult_eq (a : Area) :
    areaResult a = [areaStateField a.state, portField a.holder, byteOf (a.first.getD 0)] ++
      fieldNat (a.count.getD 0) ++
      [numberField a.channel,
        byteOf ((if a.first = none then 1 else 0) + (if a.count = none then 2 else 0))] ++
      fieldNat a.size ++ fieldNat a.readPos ++ fieldNat a.writePos ++ fieldNat a.fill ++
      fieldNat (a.size - a.fill) := by
  rw [areaResult, absentMarks_eq_sum, Area.free]

section
variable {p : Port} {s : State} {n : AreaNo}

/-! ## DROP AREA -/

theorem exec_dropArea (p : Port) (s : State) : exec (.dropArea p) s = execDropArea p s := rfl

/-- DROP AREA taken by the engine answers as its checks and effect say, in any link state (R105, R160). -/
theorem exec_dropArea_taken (taken : engineTakes s p 0x31#8 = true) :
    exec (.dropArea p) s = .next (complete p (dropArea p s).1 (dropArea p s).2) := by
  rw [exec_dropArea, execDropArea, taken, takeCommand_taken]

/-- DROP AREA of an area above 9 (R105). -/
theorem dropArea_of_none (named : area? (param (s.port p) 0) = none) :
    dropArea p s = (.refuse .badParam, s) := by
  rw [dropArea, named]

/-- DROP AREA's checks in their order, and its effect (R105). -/
theorem dropArea_of_some (named : area? (param (s.port p) 0) = some n) :
    dropArea p s =
      if (s.area n).state = .undefined then (.refuse .areaUndefined, s)
      else if (s.area n).holder ≠ some p then (.refuse .heldElsewhere, s)
      else if (s.area n).state = .bound then (.refuse .areaBound, s)
      else (.done [], s.setArea n Area.undefined) := by
  simp [dropArea, named]

/-! ## CLEAR AREA -/

theorem exec_clearArea (p : Port) (s : State) : exec (.clearArea p) s = execClearArea p s := rfl

/-- CLEAR AREA taken by the engine answers as its checks and effect say, in any link state (R106, R160). -/
theorem exec_clearArea_taken (taken : engineTakes s p 0x32#8 = true) :
    exec (.clearArea p) s = .next (complete p (clearArea p s).1 (clearArea p s).2) := by
  rw [exec_clearArea, execClearArea, taken, takeCommand_taken]

/-- CLEAR AREA of an area above 9 (R106). -/
theorem clearArea_of_none (named : area? (param (s.port p) 0) = none) :
    clearArea p s = (.refuse .badParam, s) := by
  rw [clearArea, named]

/-- CLEAR AREA's checks in their order, and its effect, with the fill level before it as the result
(R106). -/
theorem clearArea_of_some (named : area? (param (s.port p) 0) = some n) :
    clearArea p s =
      if (s.area n).state = .undefined then (.refuse .areaUndefined, s)
      else if (s.area n).holder ≠ some p then (.refuse .heldElsewhere, s)
      else if (s.area n).state = .bound ∧ (s.area n).channel.any (fun c => (s.channel c).state = .active) then
        (.refuse .state, s)
      else (.done (fieldNat (s.area n).fill), s.setArea n (s.area n).emptied) := by
  simp [clearArea, named]

/-! ## AREA STATUS -/

theorem exec_areaStatus (p : Port) (s : State) : exec (.areaStatus p) s = execAreaStatus p s := rfl

/-- AREA STATUS taken by the engine answers as its check and result say, in any link state (R107, R160). -/
theorem exec_areaStatus_taken (taken : engineTakes s p 0x33#8 = true) :
    exec (.areaStatus p) s = .next (complete p (areaStatus p s).1 (areaStatus p s).2) := by
  rw [exec_areaStatus, execAreaStatus, taken, takeCommand_taken]

/-- AREA STATUS of an area above 9 (R107). -/
theorem areaStatus_of_none (named : area? (param (s.port p) 0) = none) :
    areaStatus p s = (.refuse .badParam, s) := by
  rw [areaStatus, named]

/-- AREA STATUS returns the record of an area, whoever holds it, and changes nothing (R107). -/
theorem areaStatus_of_some (named : area? (param (s.port p) 0) = some n) :
    areaStatus p s = (.done (areaResult (s.area n)), s) := by
  rw [areaStatus, named]

end

/-! ## The three commands -/

/-- Settles O31: for each command the area above 9, and for an area that is named the checks in their order,
by the command's own equations. -/
theorem areaCommandsAct : Obligations.AreaCommandsAct := by
  intro p s
  refine ⟨fun taken => ?drop, fun taken => ?clear, fun taken => ?status⟩
  case drop =>
    rw [exec_dropArea_taken taken]
    split
    next named => rw [dropArea_of_none named, refusedWith]
    next n named =>
      rw [dropArea_of_some named]
      split_ifs <;> rfl
  case clear =>
    rw [exec_clearArea_taken taken]
    split
    next named => rw [clearArea_of_none named, refusedWith]
    next n named =>
      rw [clearArea_of_some named]
      split_ifs <;> rfl
  case status =>
    rw [exec_areaStatus_taken taken]
    split
    next named => rw [areaStatus_of_none named, refusedWith]
    next n named =>
      rw [areaStatus_of_some named, areaResult_eq, doneWith]
      cases counted : (s.area n).count with
      | none => simp [Area.size_of_none counted]
      | some k => simp [Area.size_of_some counted]

end Sys2Proof.Machine
end

section
/-! SUPPORT. The waiter lists: what each operation of the channel table and of the cell table keeps of the
agreement between the lists and the WAITING channels (R123, R142, R148, R149). -/

namespace Sys2Proof.Machine

open Sys2Proof

/-! ## The agreement among some of the channels -/

/-- The gate of the channel's head order (R116). -/
def Channel.headGate (x : Channel) : Option CellNo := x.queue.head?.bind Order.gate

/-- The waiter lists hold, each once, just those WAITING channels that `among` admits. While a step has taken
one channel out of its list and not yet settled its state, `among` leaves that channel out. -/
structure WaitersMatchAmong (among : ChannelNo → Prop) (s : State) : Prop where
  nodup : ∀ k, (s.cell k).waiters.Nodup
  mem : ∀ k c, c ∈ (s.cell k).waiters ↔
    among c ∧ (s.channel c).state = .waiting ∧ (s.channel c).headGate = some k
  gated : ∀ c, among c → (s.channel c).state = .waiting → (s.channel c).headGate.isSome

/-- The agreement of every channel but one. -/
abbrev WaitersMatchBut (c : ChannelNo) (s : State) : Prop := WaitersMatchAmong (· ≠ c) s

theorem waitersMatch_iff (s : State) : WaitersMatch s ↔ WaitersMatchAmong (fun _ => True) s :=
  ⟨fun ⟨nodup, mem, gated⟩ => ⟨nodup, fun k c => by rw [true_and]; exact mem k c, fun c _ => gated c⟩,
    fun ⟨nodup, mem, gated⟩ =>
      ⟨nodup, fun k c => by have := mem k c; rwa [true_and] at this, fun c => gated c trivial⟩⟩

/-- The agreement rests on the waiter lists, the channels' states and their head orders' gates alone. -/
theorem WaitersMatchAmong.congr {among : ChannelNo → Prop} {s t : State} (h : WaitersMatchAmong among s)
    (lists : ∀ k, (t.cell k).waiters = (s.cell k).waiters)
    (states : ∀ c, among c → (t.channel c).state = (s.channel c).state)
    (gates : ∀ c, among c → (t.channel c).headGate = (s.channel c).headGate) :
    WaitersMatchAmong among t := by
  refine ⟨fun k => ?_, fun k c => ?_, fun c hc => ?_⟩
  · rw [lists]
    exact h.nodup k
  · rw [lists, h.mem]
    exact and_congr_right fun hc => by rw [states c hc, gates c hc]
  · rw [states c hc, gates c hc]
    exact h.gated c hc

/-- A channel that is not WAITING may be left out of the agreement, and taken into it. -/
theorem waitersMatch_iff_but {s : State} {c : ChannelNo} (hc : (s.channel c).state ≠ .waiting) :
    WaitersMatch s ↔ WaitersMatchBut c s := by
  have notC {d} (hd : (s.channel d).state = .waiting) : d ≠ c := fun e => hc (e ▸ hd)
  rw [waitersMatch_iff]
  constructor
  · rintro ⟨nodup, mem, gated⟩
    refine ⟨nodup, fun k d => ?_, fun d _ => gated d trivial⟩
    rw [mem, true_and]
    exact ⟨fun hd => ⟨notC hd.1, hd⟩, And.right⟩
  · rintro ⟨nodup, mem, gated⟩
    refine ⟨nodup, fun k d => ?_, fun d _ hd => gated d (notC hd) hd⟩
    rw [mem, true_and]
    exact ⟨And.right, fun hd => ⟨notC hd.1, hd⟩⟩

/-- The record of the channel that is left out may change freely. -/
theorem WaitersMatchAmong.setChannel {s : State} {c : ChannelNo} (h : WaitersMatchBut c s) (x : Channel) :
    WaitersMatchBut c (s.setChannel c x) :=
  h.congr (fun _ => rfl) (fun d hd => by simp [hd]) (fun d hd => by simp [hd])

/-! ## Gates -/

/-- A write changes no list and no channel. -/
theorem WaitersMatchAmong.writeCell {among : ChannelNo → Prop} {s : State}
    (h : WaitersMatchAmong among s) (k : CellNo) (v : Word) : WaitersMatchAmong among (s.writeCell k v) := by
  unfold State.writeCell
  split
  · exact h
  · exact h.congr (fun l => by by_cases hl : l = k <;> simp [hl]) (fun _ _ => rfl) (fun _ _ => rfl)

/-- The oldest waiter takes one: it leaves the list and is WAITING no more (R149). -/
theorem WaitersMatchAmong.gateTake {among : ChannelNo → Prop} {s : State} {k : CellNo} {w : ChannelNo}
    {rest : List ChannelNo} (h : WaitersMatchAmong among s) (hw : (s.cell k).waiters = w :: rest) :
    WaitersMatchAmong among (gateTake s k w rest) := by
  obtain ⟨nodup, mem, gated⟩ := h.writeCell k ((s.cell k).value - 1#16)
  have list : ((s.writeCell k ((s.cell k).value - 1#16)).cell k).waiters = w :: rest := by
    rw [State.writeCell_waiters, hw]
  have atK : among w ∧ _ ∧ _ = some k := (mem k w).1 (list ▸ List.mem_cons_self)
  have notInRest : w ∉ rest := (List.nodup_cons.1 (list ▸ nodup k)).1
  unfold Machine.gateTake
  generalize s.writeCell k ((s.cell k).value - 1#16) = u at *
  refine ⟨fun l => ?_, fun l c => ?_, fun c hc => ?_⟩
  · by_cases hl : l = k
    · simpa [hl] using (List.nodup_cons.1 (list ▸ nodup k)).2
    · simpa [hl] using nodup l
  · by_cases hl : l = k
    · have here := mem k c
      rw [list, List.mem_cons] at here
      by_cases hcw : c = w
      · simp [hl, hcw, notInRest]
      · simpa [hl, hcw] using here
    · by_cases hcw : c = w
      · subst hcw
        have away : c ∉ (u.cell l).waiters := fun hm => hl (by
          have := (mem l c).1 hm
          rw [atK.2.2] at this
          exact (Option.some.inj this.2.2).symm)
        simp [hl, away]
      · simpa [hl, hcw] using mem l c
  · by_cases hcw : c = w
    · simp [hcw]
    · simpa [hcw] using gated c hc

theorem WaitersMatchAmong.gateTakes {among : ChannelNo → Prop} (k : CellNo) (ws : List ChannelNo) :
    ∀ {s : State}, WaitersMatchAmong among s → (s.cell k).waiters = ws →
      WaitersMatchAmong among (gateTakes k ws s).1 := by
  induction ws with
  | nil => exact fun h _ => h
  | cons w rest ih =>
    intro s h hw
    simp only [Machine.gateTakes]
    split
    · exact h
    · exact ih (h.gateTake hw) (gateTake_waiters k s w rest)

theorem WaitersMatchAmong.gateRule {among : ChannelNo → Prop} {s : State} (h : WaitersMatchAmong among s)
    (k : CellNo) : WaitersMatchAmong among (gateRule s k).1 := h.gateTakes k _ rfl

theorem WaitersMatchAmong.incrementCell {among : ChannelNo → Prop} {s : State}
    (h : WaitersMatchAmong among s) (k : CellNo) : WaitersMatchAmong among (incrementCell s k) :=
  (h.writeCell k _).gateRule k

/-- A WAITING channel in no list joins the one that its head order names (R148). -/
theorem WaitersMatchAmong.joinGate {s : State} {c : ChannelNo} {k : CellNo} (h : WaitersMatchBut c s)
    (hs : (s.channel c).state = .waiting) (hg : (s.channel c).headGate = some k) :
    WaitersMatch (joinGate s c k) := by
  rw [waitersMatch_iff]
  refine WaitersMatchAmong.gateRule (k := k) ⟨fun l => ?_, fun l d => ?_, fun d _ => ?_⟩
  · by_cases hl : l = k
    · have absent : c ∉ (s.cell k).waiters := fun hm => ((h.mem k c).1 hm).1 rfl
      simpa [hl, List.nodup_append, h.nodup k] using fun d hd (e : d = c) => absent (e ▸ hd)
    · simpa [hl] using h.nodup l
  · by_cases hd : d = c
    · subst hd
      by_cases hl : l = k
      · simp [hl, hs, hg]
      · have absent : d ∉ (s.cell l).waiters := fun hm => ((h.mem l d).1 hm).1 rfl
        simp [hl, absent, hg, Ne.symm hl]
    · by_cases hl : l = k
      · simpa [hl, hd] using h.mem k d
      · simpa [hl, hd] using h.mem l d
  · by_cases hd : d = c
    · intro
      simp [hd, hg]
    · exact h.gated d hd

/-- A WAITING channel leaves its list, and is then in none (R148). -/
theorem WaitersMatch.leaveIfWaiting {s : State} (h : WaitersMatch s) (c : ChannelNo) :
    WaitersMatchBut c (leaveIfWaiting s c) := by
  by_cases waiting : (s.channel c).state = .waiting
  case neg =>
    rw [Machine.leaveIfWaiting, if_neg waiting]
    exact (waitersMatch_iff_but waiting).1 h
  case pos =>
    obtain ⟨nodup, mem, gated⟩ := (waitersMatch_iff s).1 h
    obtain ⟨k, hk⟩ := Option.isSome_iff_exists.1 (gated c trivial waiting)
    have left : Machine.leaveIfWaiting s c = leaveGate s c k := by
      rw [Machine.leaveIfWaiting, if_pos waiting]
      unfold Channel.headGate at hk
      split
      · simp_all
      · cases hq : (s.channel c).queue with
        | nil => simp [hq] at hk
        | cons o rest =>
          rename_i away
          obtain ⟨tag, count, moved, gate, cell⟩ := o
          simp only [hq, List.head?_cons, Option.bind_some] at hk
          exact absurd hq (by rw [hk]; exact away _ _ _ _ _ _)
    rw [left]
    unfold leaveGate
    refine ⟨fun l => ?_, fun l d => ?_, fun d _ => gated d trivial⟩
    · by_cases hl : l = k
      · simpa [hl] using (nodup k).filter _
      · simpa [hl] using nodup l
    · by_cases hl : l = k
      · simp [hl, mem, and_comm]
      · by_cases hd : d = c
        · have absent : d ∉ (s.cell l).waiters := fun hm => hl (by
            have := ((mem l d).1 hm).2.2
            rw [hd, hk] at this
            exact (Option.some.inj this).symm)
          simp [hl, hd ▸ absent, hd]
        · simp [hl, hd, mem]

/-! ## Orders -/

/-- The head of the queue becomes current, and the channel is in the list where it then belongs (R123). -/
theorem WaitersMatchAmong.becomeCurrent {s : State} {c : ChannelNo} (h : WaitersMatchBut c s) :
    WaitersMatch (becomeCurrent s c) := by
  have settle {x : ChannelState} (hx : x ≠ .waiting) : WaitersMatch (s.setChannelState c x) :=
    (waitersMatch_iff_but (by simpa using hx)).2 (h.setChannel _)
  unfold Machine.becomeCurrent
  split
  · exact settle (by simp)
  · rename_i o rest hq
    split
    · exact settle (by simp)
    · rename_i k hk
      exact WaitersMatchAmong.joinGate (h.setChannel _) (by simp) (by simp [Channel.headGate, hq, hk])

theorem WaitersMatchAmong.recordEnd {among : ChannelNo → Prop} {s : State} (h : WaitersMatchAmong among s)
    (c : ChannelNo) (o : Order) (r : OrderOutcome) : WaitersMatchAmong among (recordEnd s c o r) := by
  unfold Machine.recordEnd
  split
  · exact h.congr (fun _ => rfl) (fun _ _ => rfl) (fun _ _ => rfl)
  · exact h

theorem WaitersMatchAmong.countCompletion {among : ChannelNo → Prop} {s : State}
    (h : WaitersMatchAmong among s) (o : Order) (r : OrderOutcome) :
    WaitersMatchAmong among (countCompletion s o r) := by
  unfold Machine.countCompletion
  split
  · split
    · exact h.incrementCell _
    · exact h
  · exact h

theorem WaitersMatchAmong.endHead {s : State} {c : ChannelNo} (h : WaitersMatchBut c s) (r : OrderOutcome) :
    WaitersMatchBut c (endHead s c r) := by
  unfold Machine.endHead
  split
  · exact h
  · exact ((h.setChannel _).recordEnd ..).countCompletion ..

theorem WaitersMatchAmong.abortOrders (c : ChannelNo) (l : List Order) :
    ∀ {s : State}, WaitersMatchBut c s → WaitersMatchBut c (abortOrders c l s) := by
  induction l with
  | nil => exact fun h => h
  | cons _ l ih => exact fun h => ih (h.endHead _)

theorem WaitersMatchAmong.endAndAdvance {s : State} {c : ChannelNo} (h : WaitersMatchBut c s)
    (r : OrderOutcome) : WaitersMatch (endAndAdvance s c r) := (h.endHead r).becomeCurrent

theorem WaitersMatchAmong.raiseOwner {among : ChannelNo → Prop} {s : State} (h : WaitersMatchAmong among s)
    (o : Option Port) (e : Event) : WaitersMatchAmong among (s.raiseOwner o e) := by
  cases o with
  | none => exact h
  | some p => exact h.congr (fun _ => rfl) (fun _ _ => rfl) (fun _ _ => rfl)

@[simp] theorem State.raiseOwner_channel (s : State) (o : Option Port) (e : Event) (c : ChannelNo) :
    (s.raiseOwner o e).channel c = s.channel c := by
  cases o <;> rfl

@[simp] theorem State.raiseOwner_cell (s : State) (o : Option Port) (e : Event) (k : CellNo) :
    (s.raiseOwner o e).cell k = s.cell k := by
  cases o <;> rfl

theorem WaitersMatchAmong.haltChannel {s : State} {c : ChannelNo} (h : WaitersMatchBut c s)
    (reason : HaltReason) : WaitersMatch (haltChannel s c reason) := by
  have halted : ((Machine.haltChannel s c reason).channel c).state ≠ .waiting := by
    simp [Machine.haltChannel]
  exact (waitersMatch_iff_but halted).2 ((h.setChannel _).raiseOwner ..)

theorem WaitersMatch.endAndHalt {s : State} (h : WaitersMatch s) (c : ChannelNo) (r : OrderOutcome)
    (reason : HaltReason) : WaitersMatch (endAndHalt s c r reason) :=
  ((h.leaveIfWaiting c).endHead r).haltChannel reason

/-- A step that leaves the lists, the states and the head orders' gates keeps the agreement. -/
theorem WaitersMatch.congr {s t : State} (h : WaitersMatch s)
    (lists : ∀ k, (t.cell k).waiters = (s.cell k).waiters)
    (states : ∀ c, (t.channel c).state = (s.channel c).state)
    (gates : ∀ c, (t.channel c).headGate = (s.channel c).headGate) : WaitersMatch t :=
  (waitersMatch_iff t).2
    (((waitersMatch_iff s).1 h).congr lists (fun c _ => states c) (fun c _ => gates c))

theorem WaitersMatch.foldl {α : Type} {f : State → α → State}
    (h : ∀ s x, WaitersMatch s → WaitersMatch (f s x)) (l : List α) :
    ∀ s, WaitersMatch s → WaitersMatch (l.foldl f s) := by
  induction l with
  | nil => exact fun _ hs => hs
  | cons x l ih => exact fun s hs => ih _ (h s x hs)

theorem WaitersMatch.checkArea {s : State} (h : WaitersMatch s) (c : ChannelNo) :
    WaitersMatch (checkArea s c) := by
  unfold Machine.checkArea
  split
  · split
    · exact h.endAndHalt ..
    · rename_i idle
      refine WaitersMatchAmong.haltChannel ((waitersMatch_iff_but fun waiting => idle ?_).1 h) _
      simp [Channel.hasCurrent, waiting]
  · exact h

theorem WaitersMatch.checkAreas {s : State} (h : WaitersMatch s) (order : ChannelOrder) :
    WaitersMatch (checkAreas order s) := WaitersMatch.foldl (fun _ c hs => hs.checkArea c) _ s h

theorem WaitersMatch.setLoopPause {s : State} (h : WaitersMatch s) (c : ChannelNo) (b : Bool) :
    WaitersMatch (setLoopPause s c b) := by
  unfold Machine.setLoopPause
  split
  · exact h
  · refine h.congr (by simp) (fun d => ?_) (fun d => ?_) <;> by_cases hd : d = c <;>
      simp [hd, Channel.headGate]

theorem WaitersMatch.channelsDown {s : State} (h : WaitersMatch s) (order : ChannelOrder) :
    WaitersMatch (channelsDown order s) := by
  refine WaitersMatch.foldl (fun t c ht => ?_) _ s h
  unfold Machine.channelDown
  refine WaitersMatch.setLoopPause ?_ ..
  split
  · exact ht.endAndHalt ..
  · exact ht

theorem WaitersMatch.updateLoopPauses {s : State} (h : WaitersMatch s) : WaitersMatch (updateLoopPauses s) := by
  refine WaitersMatch.foldl (fun t c ht => ?_) _ s h
  unfold updateLoopPause
  split
  · exact ht.setLoopPause ..
  · exact ht

/-- More bytes moved for a head order leave its gate. -/
theorem WaitersMatch.moveHead {s : State} (h : WaitersMatch s) (c : ChannelNo) (n : Nat) :
    WaitersMatch (moveHead s c n) := by
  unfold Machine.moveHead
  split
  · exact h
  · rename_i o rest hq
    refine h.congr (fun _ => rfl) (fun d => ?_) (fun d => ?_) <;> by_cases hd : d = c <;>
      simp [hd, Channel.headGate, hq]

/-! ## Rings and units -/

@[simp] theorem ringAppend_channel (s : State) (n : AreaNo) (b : Byte) (c : ChannelNo) :
    (ringAppend s n b).channel c = s.channel c := rfl

@[simp] theorem ringRemove_channel (s : State) (n : AreaNo) (c : ChannelNo) :
    (ringRemove s n).channel c = s.channel c := rfl

@[simp] theorem ringAppendAll_channel (n : AreaNo) (l : List Byte) (c : ChannelNo) :
    ∀ s, (ringAppendAll n l s).channel c = s.channel c := by
  induction l with
  | nil => exact fun _ => rfl
  | cons b l ih => exact fun s => ih _

@[simp] theorem ringAppendAll_cell (n : AreaNo) (l : List Byte) (k : CellNo) :
    ∀ s, (ringAppendAll n l s).cell k = s.cell k := by
  induction l with
  | nil => exact fun _ => rfl
  | cons b l ih => exact fun s => ih _

@[simp] theorem ringTake_channel (n : AreaNo) (k : Nat) (c : ChannelNo) :
    ∀ s, (ringTake n k s).2.channel c = s.channel c := by
  induction k with
  | zero => exact fun _ => rfl
  | succ k ih => exact fun s => ih _

@[simp] theorem ringTake_cell (n : AreaNo) (k : Nat) (l : CellNo) :
    ∀ s, (ringTake n k s).2.cell l = s.cell l := by
  induction k with
  | zero => exact fun _ => rfl
  | succ k ih => exact fun s => ih _

/-- A step of the rings changes no list and no channel. -/
theorem WaitersMatch.apart {s t : State} (h : WaitersMatch s) (hk : ∀ k, t.cell k = s.cell k)
    (hc : ∀ c, t.channel c = s.channel c) : WaitersMatch t :=
  h.congr (fun k => by rw [hk]) (fun c => by rw [hc]) (fun c => by rw [hc])

@[simp] theorem moveHead_state (s : State) (c d : ChannelNo) (n : Nat) :
    ((moveHead s c n).channel d).state = (s.channel d).state := by
  unfold moveHead
  split
  · rfl
  · by_cases hd : d = c <;> simp [hd]

/-- An order of an ACTIVE channel ends, in a state that differs by the bytes moved. -/
theorem WaitersMatch.endActive {s : State} (h : WaitersMatch s) {c : ChannelNo}
    (active : (s.channel c).state = .active) (r : OrderOutcome) : WaitersMatch (endAndAdvance s c r) :=
  ((waitersMatch_iff_but (by simp [active])).1 h).endAndAdvance r

theorem WaitersMatch.formUnit {s : State} (h : WaitersMatch s) (c : ChannelNo) :
    WaitersMatch (formUnit s c).2 := by
  unfold Machine.formUnit
  split
  case isFalse => exact h
  case isTrue forms =>
    have active : (s.channel c).state = .active := by
      simp only [formsUnit, Bool.and_eq_true, beq_iff_eq] at forms
      exact forms.1.1.2
    split
    · rename_i a o rest _ _
      have moved : WaitersMatch (Machine.moveHead (ringTake a (unitCount s c a o) s).2 c (unitCount s c a o)) :=
        (h.apart (by simp) (by simp)).moveHead ..
      simp only [takeUnit]
      split
      · exact moved.endActive (by simp [active]) _
      · exact moved
    · exact h

theorem WaitersMatch.formUnits (l : List ChannelNo) :
    ∀ (u : FrameUnits) (s : State), WaitersMatch s → WaitersMatch (formUnits l (u, s)).2 := by
  induction l with
  | nil => exact fun _ _ h => h
  | cons c l ih => exact fun u s h => ih _ _ (h.formUnit c)

theorem WaitersMatch.deliverBytes (c : ChannelNo) (e : Bool) (fuel : Nat) :
    ∀ (data : List Byte) (s : State), WaitersMatch s → WaitersMatch (deliverBytes c e fuel data s) := by
  induction fuel with
  | zero => exact fun _ _ h => h
  | succ fuel ih =>
    intro data s h
    simp only [Machine.deliverBytes]
    split
    · rename_i a o rest active _ _
      have moved (l : List Byte) (n : Nat) :
          WaitersMatch (Machine.moveHead (ringAppendAll a l s) c n) := (h.apart (by simp) (by simp)).moveHead ..
      have ended (r : OrderOutcome) :
          WaitersMatch (Machine.endAndAdvance (Machine.moveHead (ringAppendAll a
            (data.take (min data.length o.remaining)) s) c (min data.length o.remaining)) c r) :=
        (moved _ _).endActive (by simp [active]) r
      split
      · exact (moved ..).endAndHalt ..
      · split
        · split
          · exact ended _
          · exact ih _ _ (ended _)
        · split
          · exact ended _
          · exact moved ..
    · split
      · exact h
      · exact h.congr (by simp) (by simp) (by simp)

theorem WaitersMatch.deliverFrame {s : State} (h : WaitersMatch s) (order : ChannelOrder)
    (payload : Payload) : WaitersMatch (deliverFrame order payload s) := by
  unfold Machine.deliverFrame
  split
  · refine WaitersMatch.foldl (fun t c ht => ?_) _ s h
    unfold deliverChannel
    split
    · unfold deliverUnit
      split
      · exact ht
      · simp only
        split
        · exact ht.congr (by simp) (by simp) (by simp)
        · exact WaitersMatch.deliverBytes _ _ _ _ _ ht
    · exact ht
  · exact h

end Sys2Proof.Machine
end

section
/-! SUPPORT. What the operations of the trunk side keep of the order counts (R117) and of the waiter lists
(R148): most touch neither the channels nor the cells. -/

namespace Sys2Proof.Machine

open Sys2Proof

/-! ## The relation -/

/-- A step that keeps the order counts and the waiter lists right. -/
structure KeepsOrders (s t : State) : Prop where
  counted : OrdersCounted s → OrdersCounted t
  waiters : WaitersMatch s → WaitersMatch t

namespace KeepsOrders

theorem refl (s : State) : KeepsOrders s s := ⟨id, id⟩

theorem trans {s t u : State} (h : KeepsOrders s t) (k : KeepsOrders t u) : KeepsOrders s u :=
  ⟨k.counted ∘ h.counted, k.waiters ∘ h.waiters⟩

theorem after {s t u : State} (k : KeepsOrders t u) (h : KeepsOrders s t) : KeepsOrders s u := h.trans k

theorem ite {s t u : State} {p : Prop} [Decidable p] (h : p → KeepsOrders s t) (k : ¬p → KeepsOrders s u) :
    KeepsOrders s (if p then t else u) := by
  split
  · exact h ‹_›
  · exact k ‹_›

/-- A step that leaves the channels, the cells and, of each port, the order count and the records. -/
theorem of_tables {s t : State} (hc : t.channels = s.channels) (hk : t.cells = s.cells)
    (hp : ∀ p, (t.port p).orderCount = (s.port p).orderCount ∧
      (t.port p).completions = (s.port p).completions) : KeepsOrders s t := by
  refine ⟨(QuietStep.of_channels hc hp).keeps, fun h => h.apart (fun k => ?_) fun c => ?_⟩
  · rw [State.cell, hk, State.cell]
  · rw [State.channel, hc, State.channel]

/-- A step that leaves the channels, the cells and the ports. -/
theorem apart {s t : State} (hc : t.channels = s.channels) (hk : t.cells = s.cells)
    (hp : t.ports = s.ports) : KeepsOrders s t :=
  of_tables hc hk fun p => by rw [State.port, hp, State.port]; exact ⟨rfl, rfl⟩

theorem setPort {s : State} {p : Port} {q : PortState} (h : q.orderCount = (s.port p).orderCount)
    (k : q.completions = (s.port p).completions) : KeepsOrders s (s.setPort p q) :=
  ⟨(QuietStep.setPort h k).keeps, fun w => w.apart (fun _ => rfl) fun _ => rfl⟩

theorem raise (s : State) (p : Port) (e : Event) : KeepsOrders s (s.raise p e) := setPort rfl rfl

theorem raiseAll (s : State) (e : Event) : KeepsOrders s (s.raiseAll e) :=
  ((raise s .p1 e).trans (raise _ .p2 e)).trans (raise _ .p3 e)

/-! ## The channel and the cell table -/

theorem checkAreas (order : ChannelOrder) (s : State) : KeepsOrders s (checkAreas order s) :=
  ⟨fun h => h.checkAreas order, fun h => h.checkAreas order⟩

theorem channelsDown (order : ChannelOrder) (s : State) : KeepsOrders s (channelsDown order s) :=
  ⟨fun h => h.channelsDown order, fun h => h.channelsDown order⟩

theorem updateLoopPauses (s : State) : KeepsOrders s (updateLoopPauses s) :=
  ⟨(QuietStep.updateLoopPauses s).keeps, fun h => h.updateLoopPauses⟩

theorem formUnits (l : List ChannelNo) (u : FrameUnits) (s : State) :
    KeepsOrders s (formUnits l (u, s)).2 :=
  ⟨OrdersCounted.formUnits l u s, WaitersMatch.formUnits l u s⟩

theorem deliverFrame (order : ChannelOrder) (payload : Payload) (s : State) :
    KeepsOrders s (deliverFrame order payload s) :=
  ⟨fun h => h.deliverFrame order payload, fun h => h.deliverFrame order payload⟩

/-- A cell written, with the gate rule (R149). -/
theorem writeAndGate (s : State) (k : CellNo) (v : Word) : KeepsOrders s (gateRule (s.writeCell k v) k).1 :=
  ⟨((QuietStep.writeCell s k v).trans (QuietStep.gateRule _ k)).keeps, fun h =>
    (waitersMatch_iff _).2 ((((waitersMatch_iff s).1 h).writeCell k v).gateRule k)⟩

theorem writeCell (s : State) (k : CellNo) (v : Word) : KeepsOrders s (s.writeCell k v) :=
  ⟨(QuietStep.writeCell s k v).keeps, fun h =>
    (waitersMatch_iff _).2 (((waitersMatch_iff s).1 h).writeCell k v)⟩

/-! ## The plan exchange -/

theorem writeOutcome (s : State) (k : PlanOutcomeKind) (r : Option RefusalReason) (q : Option Requester) :
    KeepsOrders s (writeOutcome s k r q) :=
  (apart (s := s) (t := { s with exchange := { s.exchange with
    last := some ⟨k, r, q, s.framer.cycle⟩ } }) rfl rfl rfl).trans (raiseAll ..)

theorem endExchange (s : State) (k : PlanOutcomeKind) (r : Option RefusalReason) (b : Bool) :
    KeepsOrders s (endExchange s k r b) := by
  unfold Machine.endExchange
  refine trans ?_ (writeOutcome ..)
  split <;> split <;> exact apart rfl rfl rfl

theorem appendPlan (s : State) (m : Message) : KeepsOrders s (appendPlan s m) :=
  ite (fun _ => apart rfl rfl rfl) fun _ => refl s

theorem sendWithdraw (s : State) : KeepsOrders s (sendWithdraw s) :=
  ite (fun _ => refl s) fun _ => appendPlan ..

theorem enterScheduled (s : State) (d : Side) (q : Option Requester) (t : Option Byte) :
    KeepsOrders s (enterScheduled s d q t) :=
  (apart (s := s) (t := { s with exchange := { s.exchange with
    state := .scheduled, side := some d, requester := q, target := t } }) rfl rfl rfl).trans (raiseAll ..)

theorem writeAnswer (s : State) (m : Message) (a : AnswerSource) : KeepsOrders s (writeAnswer s m a) := by
  have placed : KeepsOrders s { s with service := { s.service with answer := some ⟨m, a⟩ } } :=
    apart rfl rfl rfl
  unfold Machine.writeAnswer
  dsimp only
  split
  · exact placed.trans (ite (fun _ => endExchange ..) fun _ => refl _)
  · exact placed

theorem offerInIdle (s : State) (d : Word) : KeepsOrders s (offerInIdle s d) := by
  unfold Machine.offerInIdle
  refine ite (fun _ => writeAnswer ..) fun _ => ?_
  refine trans (apart (t := { s with exchange := { s.exchange with
    answer := some (answerDigest s.plan.shadowTables), peerOffer := some d } }) rfl rfl rfl) ?_
  exact ite (fun _ => (writeAnswer ..).trans (enterScheduled ..)) fun _ => writeAnswer ..

theorem offerReceived (s : State) (d : Word) : KeepsOrders s (offerReceived s d) := by
  unfold Machine.offerReceived
  split
  · exact offerInIdle ..
  · exact writeAnswer ..
  · exact ite (fun _ => writeAnswer ..) fun _ => (endExchange ..).trans (offerInIdle ..)

theorem planReceived (s : State) (m : Message) : KeepsOrders s (planReceived s m) :=
  ite (fun _ => offerReceived ..) fun _ =>
    ite (fun _ => ite (fun _ => ite (fun _ => enterScheduled ..)
      fun _ => (sendWithdraw s).trans (endExchange ..)) fun _ => refl s) fun _ =>
      ite (fun _ => ite (fun _ => endExchange ..) fun _ => refl s) fun _ =>
        ite (fun _ => endExchange ..) fun _ => refl s

theorem planTimeoutOp (s : State) : KeepsOrders s (planTimeoutOp s) :=
  (sendWithdraw s).trans (endExchange ..)

theorem swapBanks (s : State) : KeepsOrders s (swapBanks s) := apart rfl rfl rfl

theorem planSwapOp (order : ChannelOrder) (s : State) : KeepsOrders s (planSwapOp order s) :=
  ((swapBanks s).trans (checkAreas ..)).trans (endExchange ..)

theorem bankAdoptionOp (order : ChannelOrder) (s : State) : KeepsOrders s (bankAdoptionOp order s) := by
  have swapped : KeepsOrders s (if s.exchange.adopt = some s.plan.active then s else Machine.swapBanks s) :=
    ite (fun _ => refl s) fun _ => swapBanks s
  exact ((swapped.trans (checkAreas order _)).trans (writeOutcome ..)).trans (apart rfl rfl rfl)

theorem confirmMismatch (s : State) (b : Bank) : KeepsOrders s (confirmMismatch s b) := by
  have marked : KeepsOrders s { s with exchange := { s.exchange with mismatch := true } } :=
    apart rfl rfl rfl
  unfold Machine.confirmMismatch
  have ended : KeepsOrders s (if s.exchange.inFlight = true then
      Machine.endExchange { s with exchange := { s.exchange with mismatch := true } } .mismatch none false
      else Machine.writeOutcome { s with exchange := { s.exchange with mismatch := true } } .mismatch none
        (some .peer)) :=
    ite (fun _ => marked.trans (endExchange ..)) fun _ => marked.trans (writeOutcome ..)
  exact ite (fun _ => ended.trans (apart rfl rfl rfl)) fun _ => ended

theorem compareBank (s : State) (b r : Bank) : KeepsOrders s (compareBank s b r) := by
  unfold Machine.compareBank
  refine ite (fun _ => apart rfl rfl rfl) fun _ => ?_
  refine trans (apart (t := { s with exchange := { s.exchange with
    mismatchRun := min 2 (s.exchange.mismatchRun + 1) } }) rfl rfl rfl) ?_
  exact ite (fun _ => confirmMismatch ..) fun _ => refl _

theorem exchangeDown (s : State) : KeepsOrders s (exchangeDown s) := by
  unfold Machine.exchangeDown
  refine trans (t := if s.exchange.inFlight then _ else s) ?_ (apart rfl rfl rfl)
  exact ite (fun _ => endExchange ..) fun _ => refl s

/-! ## The service channel -/

theorem placeInSlot (s : State) (m : Message) : KeepsOrders s (placeInSlot s m) := apart rfl rfl rfl

theorem moveAnswer (s : State) (a : Answer) : KeepsOrders s (moveAnswer s a) := by
  have taken : KeepsOrders s { s with service := { s.service with answer := none } } := apart rfl rfl rfl
  refine taken.trans ?_
  unfold Machine.moveAnswer
  dsimp only
  split
  · refine ite (fun _ => trans ?_ (placeInSlot ..)) fun _ => placeInSlot ..
    exact ite (fun _ => apart rfl rfl rfl) fun _ => refl _
  · exact (placeInSlot ..).trans (ite (fun _ => refl _) fun _ => apart rfl rfl rfl)
  · exact placeInSlot ..

theorem moveOrigin (s : State) (e : OriginEntry) (rest : List OriginEntry) :
    KeepsOrders s (moveOrigin s e rest) := by
  unfold Machine.moveOrigin
  exact ite (fun _ => apart rfl rfl rfl) fun _ => apart rfl rfl rfl

theorem positionBoundary (s : State) : KeepsOrders s (positionBoundary s) := by
  unfold Machine.positionBoundary
  refine trans (t := chooseMessage s) ?_ (apart rfl rfl rfl)
  unfold chooseMessage
  refine ite (fun _ => refl s) fun _ => ?_
  split
  · exact moveAnswer ..
  · split
    · exact moveOrigin ..
    · exact refl s

theorem addReport (s : State) (r : Report) : KeepsOrders s (addReport s r) := by
  unfold Machine.addReport
  exact (raise ..).after (apart rfl rfl rfl)

theorem setLoops (s : State) (v : Vector Bool 24) : KeepsOrders s (setLoops s v) := apart rfl rfl rfl

theorem clearTests (s : State) : KeepsOrders s (clearTests s) := apart rfl rfl rfl

theorem maintenanceAction (s : State) (m : Message) : KeepsOrders s (maintenanceAction s m) := by
  unfold Machine.maintenanceAction
  refine ite (fun _ => setLoops ..) fun _ => ite (fun _ => ?_) fun _ =>
    ite (fun _ => apart rfl rfl rfl) fun _ => ite (fun _ => clearTests s) fun _ => refl s
  split
  · exact setLoops ..
  · exact refl s

theorem autoOrder (s : State) (m : Message) : KeepsOrders s (autoOrder s m).2 := by
  unfold Machine.autoOrder
  split_ifs
  · exact writeAnswer ..
  · exact refl s
  · exact apart rfl rfl rfl
  · exact (maintenanceAction ..).trans (writeAnswer ..)
  · exact writeAnswer ..

theorem autoValue (s : State) (m : Message) : KeepsOrders s (autoValue s m).2 := by
  unfold Machine.autoValue
  split
  · exact writeAnswer ..
  · split
    · split
      · exact (writeAndGate ..).trans (writeAnswer ..)
      · exact writeAnswer ..
    · exact writeAnswer ..

theorem dispose (s : State) (m : Message) : KeepsOrders s (dispose s m).2 := by
  unfold Machine.dispose
  split
  · exact planReceived ..
  · split
    · exact apart rfl rfl rfl
    · split
      · split
        · exact autoOrder ..
        · exact autoValue ..
      · exact ite (fun _ => apart rfl rfl rfl) fun _ => refl s

theorem positionReceived (s : State) (p : Position) (c : Byte) (m : Message) :
    KeepsOrders s (positionReceived s p c m) := by
  unfold Machine.positionReceived
  have looked : KeepsOrders s { s with service := { s.service with
      previous := some m, look := some (nextLook s.service.look m) } } := apart rfl rfl rfl
  have confirmed (u : State) : KeepsOrders u { u with service := { u.service with lastConfirmed := some m } } :=
    apart rfl rfl rfl
  dsimp only
  refine looked.trans (ite (fun _ => ?_) fun _ => ite (fun _ => addReport ..) fun _ => refl _)
  refine (confirmed _).trans (trans (dispose _ m) ?_)
  exact ite (fun _ => addReport ..) fun _ => ite (fun _ => addReport ..) fun _ => refl _

/-! ## The link controller -/

theorem tryIfReady (s : State) : KeepsOrders s (tryIfReady s) :=
  ite (fun _ => apart rfl rfl rfl) fun _ => refl s

theorem enterAnswering (s : State) : KeepsOrders s (enterAnswering s) := apart rfl rfl rfl

theorem answerIfWilling (s : State) : KeepsOrders s (answerIfWilling s) :=
  ite (fun _ => enterAnswering s) fun _ => refl s

theorem enterUp (s : State) : KeepsOrders s (enterUp s) :=
  (apart (s := s) (t := { s with link := { s.link with
    state := .up, tryCount := 0, readyWait := none } }) rfl rfl rfl).trans (raiseAll ..)

theorem leaveIfUnwanted (s : State) : KeepsOrders s (leaveIfUnwanted s) :=
  ite (fun _ => apart rfl rfl rfl) fun _ => refl s

theorem reviewClaims (s : State) : KeepsOrders s (reviewClaims s) := by
  unfold Machine.reviewClaims
  split
  · exact ite (fun _ => answerIfWilling s) fun _ => tryIfReady s
  · exact leaveIfUnwanted s
  · exact leaveIfUnwanted s
  · exact refl s

theorem removeClaim (p : Port) (s : State) : KeepsOrders s (removeClaim p s) := by
  unfold Machine.removeClaim
  exact (reviewClaims _).after (apart rfl rfl rfl)

theorem announceDown (order : ChannelOrder) (s : State) : KeepsOrders s (announceDown order s) := by
  unfold Machine.announceDown
  exact (channelsDown ..).after ((exchangeDown _).after (apart rfl rfl rfl))

theorem enterDown (order : ChannelOrder) (s : State) : KeepsOrders s (enterDown order s) :=
  (announceDown order s).trans (ite (fun _ => ite (fun _ => enterAnswering _) fun _ => raiseAll ..)
    fun _ => refl _)

theorem failTry (order : ChannelOrder) (r : Option FailureReason) (s : State) :
    KeepsOrders s (failTry order r s) := by
  unfold Machine.failTry
  have failed (r : FailureReason) : KeepsOrders s (Machine.enterDown order { s with link := { s.link with
      tryCount := min 5 (s.link.tryCount + 1), lastFailure := r } }) :=
    (enterDown order _).after (apart rfl rfl rfl)
  exact ite (fun _ => (failed _).trans (raiseAll ..)) fun _ => failed _

theorem roleClash (order : ChannelOrder) (s : State) : KeepsOrders s (roleClash order s) :=
  ((apart (s := s) (t := { s with link := { s.link with tryCount := 5, lastFailure := .roleClash } })
    rfl rfl rfl).trans (enterDown ..)).trans (raiseAll ..)

theorem resyncLost (order : ChannelOrder) (s : State) : KeepsOrders s (resyncLost order s) :=
  ((apart (s := s) (t := { s with link := { s.link with lastFailure := .lost } })
    rfl rfl rfl).trans (enterDown ..)).trans (raiseAll ..)

theorem leavingDone (order : ChannelOrder) (s : State) : KeepsOrders s (leavingDone order s) :=
  (enterDown ..).trans (raiseAll ..)

/-! ## The outbound frame and the cycle start -/

theorem beginPosition (s : State) : KeepsOrders s (beginPosition s) := by
  unfold Machine.beginPosition
  exact trans (ite (fun _ => positionBoundary s) fun _ => refl s) (apart rfl rfl rfl)

theorem statusSent (s : State) : KeepsOrders s (statusSent s) := by
  have cleared : KeepsOrders s (if flagSet s.framer.statusFlags .farError then
      { s with framer := { s.framer with farErrorToSend := false } } else s) :=
    ite (fun _ => apart rfl rfl rfl) fun _ => refl s
  unfold Machine.statusSent
  exact ite (fun _ => cleared.trans (apart rfl rfl rfl)) fun _ => cleared

theorem beginService (f : FrameNo) (s : State) : KeepsOrders s (beginService f s) :=
  ite (fun _ => (beginPosition _).after (ite (fun _ => apart rfl rfl rfl) fun _ => refl s)) fun _ =>
    ite (fun _ => apart rfl rfl rfl) fun _ =>
      ite (fun _ => ite (fun _ => statusSent s) fun _ => refl s) fun _ =>
        ite (fun _ => beginPosition s) fun _ => ite (fun _ => apart rfl rfl rfl) fun _ => refl s

theorem beginFrame (order : ChannelOrder) (f : FrameNo) (s : State) :
    KeepsOrders s (beginFrame order f s) := by
  unfold Machine.beginFrame
  refine trans ((beginService f s).trans (updateLoopPauses _)) ?_
  exact ite (fun _ => (formUnits ..).trans (apart rfl rfl rfl)) fun _ => formUnits ..

theorem openCycle (s : State) : KeepsOrders s (openCycle s) :=
  ite (fun _ => refl s) fun _ => apart rfl rfl rfl

theorem whenDue {s t : State} {due : State → Bool} {act : State → State}
    (h : ∀ u, KeepsOrders u (act u)) (k : KeepsOrders s t) : KeepsOrders s (whenDue due act t) :=
  ite (fun _ => k.trans (h t)) fun _ => k

theorem badStartExpires (s : State) : KeepsOrders s (badStartExpires s) := apart rfl rfl rfl

theorem runDue (order : ChannelOrder) (s : State) : KeepsOrders s (runDue order s) :=
  whenDue (bankAdoptionOp order) <| whenDue (planSwapOp order) <| whenDue planTimeoutOp <|
    whenDue badStartExpires <| whenDue (leavingDone order) <| whenDue (failTry order _) (refl s)

theorem cycleStep {due : State → Bool} {act : State → State} (h : ∀ u, KeepsOrders u (act u))
    (s : State) : KeepsOrders s (cycleStep due act s) :=
  ite (fun _ => (openCycle s).trans (h _)) fun _ => refl s

theorem startFrame (order : ChannelOrder) (s : State) : KeepsOrders s (startFrame order s) := by
  have begun : KeepsOrders s (setOutFrame (nextFrame s.framer.outFrame)
      (if (nextFrame s.framer.outFrame).val = 0 then Machine.runDue order (Machine.openCycle s) else s)) :=
    trans (ite (fun _ => (openCycle s).trans (runDue ..)) fun _ => refl s) (apart rfl rfl rfl)
  unfold Machine.startFrame
  exact ite (fun _ => begun.trans (beginFrame ..)) fun _ => begun

theorem catchUp (order : ChannelOrder) (s : State) : KeepsOrders s (catchUp order s) :=
  ite (fun _ => startFrame order s) fun _ => refl s

/-! ## The received frame -/

theorem handOver (order : ChannelOrder) (payload : Payload) (s : State) :
    KeepsOrders s (handOver order payload s) :=
  ite (fun _ => (deliverFrame ..).after (apart rfl rfl rfl)) fun _ => refl s

theorem rejectCycle (s : State) : KeepsOrders s (rejectCycle s) :=
  ite (fun _ => apart rfl rfl rfl) fun _ => apart rfl rfl rfl

theorem adoptProvisionally (service : Byte) (s : State) : KeepsOrders s (adoptProvisionally service s) :=
  ite (fun _ => apart rfl rfl rfl) fun _ => refl s

theorem compareNumber (v own : Byte) (s : State) : KeepsOrders s (compareNumber v own s) :=
  ite (fun _ => ite (fun _ => apart rfl rfl rfl) fun _ =>
    ite (fun _ => apart rfl rfl rfl) fun _ => apart rfl rfl rfl) fun _ => refl s

theorem passBank (flags : Byte) (b : Bank) (s : State) : KeepsOrders s (passBank flags b s) :=
  ite (fun _ => compareBank ..) fun _ => refl s

theorem enterSynced (v : Byte) (s : State) : KeepsOrders s (enterSynced v s) := by
  unfold Machine.enterSynced
  exact ite (fun _ => apart rfl rfl rfl) fun _ => apart rfl rfl rfl

theorem applyReady (flags : Byte) (s : State) : KeepsOrders s (applyReady flags s) :=
  ite (fun _ => enterUp s) fun _ => refl s

theorem applyLeaving (flags : Byte) (s : State) : KeepsOrders s (applyLeaving flags s) :=
  ite (fun _ => ite (fun _ => apart rfl rfl rfl) fun _ => leaveIfUnwanted s) fun _ => refl s

theorem linkAccepts (order : ChannelOrder) (flags v : Byte) (s : State) :
    KeepsOrders s (linkAccepts order flags v s) := by
  have stored : KeepsOrders s { s with link := { s.link with
      peerDemand := flagSet flags .demand, peerReady := flagSet flags .ready } } := apart rfl rfl rfl
  unfold Machine.linkAccepts
  refine ite (fun _ => (roleClash ..).after stored) fun _ => ?_
  exact (applyLeaving ..).after ((applyReady ..).after
    (ite (fun _ => (enterSynced ..).after stored) fun _ => stored))

theorem acceptCycle (order : ChannelOrder) (p : PendingCheck) (s : State) :
    KeepsOrders s (acceptCycle order p s) := by
  have linked := (linkAccepts order p.cycle.flags p.cycle.number _).after ((passBank p.cycle.flags
    p.cycle.reference _).after ((compareNumber p.cycle.number p.localCycle _).after
      (apart rfl rfl rfl : KeepsOrders s (storeFlags p.cycle.flags s))))
  unfold Machine.acceptCycle
  exact ite (fun _ => (positionReceived ..).after ((positionReceived ..).after linked)) fun _ => linked

theorem decideCycle (order : ChannelOrder) (s : State) : KeepsOrders s (decideCycle order s) := by
  unfold Machine.decideCycle
  split
  · exact refl s
  · exact ite (fun _ => acceptCycle ..) fun _ => rejectCycle s

theorem endReceivedCycle (order : ChannelOrder) (s : State) : KeepsOrders s (endReceivedCycle order s) := by
  unfold Machine.endReceivedCycle
  exact (decideCycle order s).trans (ite (fun _ => apart rfl rfl rfl) fun _ => refl _)

theorem readFrame (order : ChannelOrder) (payload : Payload) (service : Byte) (s : State) :
    KeepsOrders s (readFrame order payload service s) := by
  have read := (adoptProvisionally service _).after ((handOver order payload _).after
    (apart rfl rfl rfl : KeepsOrders s (gatherFrame payload service s)))
  have advanced (u : State) : KeepsOrders u (advanceDue u) := apart rfl rfl rfl
  unfold Machine.readFrame
  exact (advanced _).after (ite (fun _ => (endReceivedCycle ..).after read) fun _ => read)

theorem resyncPlace (order : ChannelOrder) (b : Bool) (payload : Payload) (service : Byte) (s : State) :
    KeepsOrders s (resyncPlace order b payload service s) := by
  unfold Machine.resyncPlace
  refine ite (fun _ => ?_) fun _ => ite (fun _ => resyncLost ..) fun _ => apart rfl rfl rfl
  exact (readFrame ..).after ((leaveIfUnwanted _).after (apart rfl rfl rfl))

theorem loseFraming (s : State) : KeepsOrders s (loseFraming s) := apart rfl rfl rfl

theorem alignmentLost (order : ChannelOrder) (payload : Payload) (service : Byte) (s : State) :
    KeepsOrders s (alignmentLost order payload service s) := by
  unfold Machine.alignmentLost
  split
  · exact apart rfl rfl rfl
  · exact failTry ..
  · exact loseFraming s
  · exact readFrame ..

theorem judgeMarker (good : Bool) (s : State) : KeepsOrders s (judgeMarker good s) := apart rfl rfl rfl

theorem receivePlace (order : ChannelOrder) (marker : Byte) (payload : Payload) (service : Byte)
    (s : State) : KeepsOrders s (receivePlace order marker payload service s) := by
  unfold Machine.receivePlace
  have opened : KeepsOrders s (if s.framer.dueFrame.val = 0 then openReceived s else s) :=
    ite (fun _ => apart rfl rfl rfl) fun _ => refl s
  have judged (good : Bool) := opened.trans (judgeMarker good _)
  exact ite (fun _ => (resyncPlace ..).after (judged _)) fun _ =>
    ite (fun _ => (alignmentLost ..).after (judged _)) fun _ => (readFrame ..).after (judged _)

/-! ## The hunt -/

theorem completeHunt (s : State) : KeepsOrders s (completeHunt s) := by
  unfold Machine.completeHunt
  exact (beginFrame ..).after (apart rfl rfl rfl)

theorem huntStep (found : Option Byte) (s : State) : KeepsOrders s (huntStep found s) :=
  ite (fun _ => apart rfl rfl rfl) fun _ => ite (fun _ => completeHunt s) fun _ => apart rfl rfl rfl

theorem huntLine (bits : List Bool) (s : State) : KeepsOrders s (huntLine bits s) := by
  unfold Machine.huntLine
  refine ite (fun _ => ?_) fun _ => ite (fun _ => refl s) fun _ => huntStep ..
  split
  · exact huntStep ..
  · exact refl s

theorem searchLine (bits : List Bool) (s : State) : KeepsOrders s (searchLine bits s) :=
  ite (fun _ => apart rfl rfl rfl) fun _ => refl s

end KeepsOrders

end Sys2Proof.Machine
end

section
/-! SUPPORT. The framer in accord with the link state: what every operation of the link controller and of the
framer leaves of it (R2, R15, R16, R20). -/

namespace Sys2Proof.Machine

open Sys2Proof

/-! ## The entry into DOWN -/

@[simp] theorem endExchange_framer (s : State) (k : PlanOutcomeKind) (r : Option RefusalReason) (b : Bool) :
    (endExchange s k r b).framer = s.framer := by
  unfold endExchange
  dsimp only
  split <;> split <;> rfl

@[simp] theorem endExchange_link (s : State) (k : PlanOutcomeKind) (r : Option RefusalReason) (b : Bool) :
    (endExchange s k r b).link = s.link := by
  unfold endExchange
  dsimp only
  split <;> split <;> rfl

@[simp] theorem exchangeDown_framer (s : State) : (exchangeDown s).framer = s.framer := by
  unfold exchangeDown
  dsimp only
  split
  · exact endExchange_framer ..
  · rfl

@[simp] theorem exchangeDown_link (s : State) : (exchangeDown s).link = s.link := by
  unfold exchangeDown
  dsimp only
  split
  · exact endExchange_link ..
  · rfl

theorem announceDown_framer (order : ChannelOrder) (s : State) :
    (announceDown order s).framer = s.framer.entersDown := by
  unfold announceDown
  rw [(ChannelStep.channelsDown ..).framer, exchangeDown_framer]
  rfl

theorem announceDown_link (order : ChannelOrder) (s : State) :
    (announceDown order s).link = s.link.entersDown := by
  unfold announceDown
  rw [(ChannelStep.channelsDown ..).link, exchangeDown_link]
  rfl

/-- The framer holds nothing of a received cycle and counts no error. -/
structure FramerCleared (s : State) : Prop where
  framed : s.framer.framed = false
  pendingCheck : s.framer.pendingCheck = none
  peerFlags : s.framer.peerFlags = 0#8
  nearEnd : s.framer.nearEnd = 0#8
  farEnd : s.framer.farEnd = 0#8

theorem FramerCleared.follows {s : State} (h : FramerCleared s) : FramerFollowsLink s :=
  ⟨fun _ => ⟨h.framed, h.pendingCheck, h.peerFlags⟩, fun _ => ⟨h.nearEnd, h.farEnd⟩⟩

theorem FramerCleared.raiseAll {s : State} (h : FramerCleared s) (e : Event) : FramerCleared (s.raiseAll e) := by
  obtain ⟨framed, pending, flags, near, far⟩ := h
  exact ⟨framed, pending, flags, near, far⟩

theorem FramerCleared.announceDown (order : ChannelOrder) (s : State) :
    FramerCleared (announceDown order s) := by
  constructor <;> rw [announceDown_framer] <;> rfl

theorem FramerCleared.enterAnswering {s : State} (h : FramerCleared s) : FramerCleared (enterAnswering s) := by
  obtain ⟨framed, pending, flags, near, far⟩ := h
  exact ⟨framed, pending, flags, near, far⟩

/-- The entry into DOWN clears the framer, whether or not a WAKE being heard is then answered (R20, R28). -/
theorem FramerCleared.enterDown (order : ChannelOrder) (s : State) : FramerCleared (enterDown order s) := by
  have announced := FramerCleared.announceDown order s
  unfold Machine.enterDown
  dsimp only
  split_ifs
  · exact announced.enterAnswering
  · exact announced.raiseAll _
  · exact announced

theorem FramerCleared.failTry (order : ChannelOrder) (r : Option FailureReason) (s : State) :
    FramerCleared (failTry order r s) := by
  unfold Machine.failTry
  dsimp only
  generalize (if min 5 (s.link.tryCount + 1) = 5 then _ else _) = failed
  split
  · exact (FramerCleared.enterDown ..).raiseAll _
  · exact FramerCleared.enterDown ..

theorem FramerCleared.roleClash (order : ChannelOrder) (s : State) : FramerCleared (roleClash order s) :=
  (FramerCleared.enterDown ..).raiseAll _

theorem FramerCleared.resyncLost (order : ChannelOrder) (s : State) : FramerCleared (resyncLost order s) :=
  (FramerCleared.enterDown ..).raiseAll _

theorem FramerCleared.leavingDone (order : ChannelOrder) (s : State) : FramerCleared (leavingDone order s) :=
  (FramerCleared.enterDown ..).raiseAll _

/-! ## Moves of the link -/

/-- The framer's received side is as it was, and the link state goes neither to rest from elsewhere nor to
ALIGNING from a state of traffic. -/
structure LinkMoves (s t : State) : Prop where
  framed : t.framer.framed = s.framer.framed
  pendingCheck : t.framer.pendingCheck = s.framer.pendingCheck
  peerFlags : t.framer.peerFlags = s.framer.peerFlags
  nearEnd : t.framer.nearEnd = s.framer.nearEnd
  farEnd : t.framer.farEnd = s.framer.farEnd
  rests : t.link.state.resting = true → s.link.state.resting = true
  aligns : t.link.state = .aligning → s.link.state.resting = true ∨ s.link.state = .aligning

theorem LinkMoves.follows {s t : State} (m : LinkMoves s t) (h : FramerFollowsLink s) :
    FramerFollowsLink t := by
  obtain ⟨atRest, counters⟩ := h
  refine ⟨fun rest => ?_, fun early => ?_⟩
  · rw [m.framed, m.pendingCheck, m.peerFlags]
    exact atRest (m.rests rest)
  · rw [m.nearEnd, m.farEnd]
    exact counters (early.elim (fun rest => .inl (m.rests rest)) m.aligns)

theorem LinkMoves.refl (s : State) : LinkMoves s s := ⟨rfl, rfl, rfl, rfl, rfl, id, .inr⟩

/-- The link state is as it was, and so is the received side. -/
theorem LinkMoves.same {s t : State} (hl : t.link.state = s.link.state)
    (framed : t.framer.framed = s.framer.framed)
    (pendingCheck : t.framer.pendingCheck = s.framer.pendingCheck)
    (peerFlags : t.framer.peerFlags = s.framer.peerFlags) (nearEnd : t.framer.nearEnd = s.framer.nearEnd)
    (farEnd : t.framer.farEnd = s.framer.farEnd) : LinkMoves s t :=
  ⟨framed, pendingCheck, peerFlags, nearEnd, farEnd, fun h => hl ▸ h, fun h => .inr (hl ▸ h)⟩

/-- A state of traffic puts no demand on the framer. -/
theorem FramerFollowsLink.of_traffic {s : State} (h : s.link.state.resting = false)
    (k : s.link.state ≠ .aligning) : FramerFollowsLink s :=
  ⟨fun rest => by simp [h] at rest, fun early => by simp [h, k] at early⟩

/-- A framed receive side is not at rest (R2). -/
theorem FramerFollowsLink.awake {s : State} (h : FramerFollowsLink s) (framed : s.framer.framed = true) :
    s.link.state.resting = false := by
  by_contra rest
  have := (h.1 (by simpa using rest)).1
  simp [framed] at this

/-- From one state of rest to another (R26, R28, R29). -/
theorem FramerFollowsLink.stayAtRest {s t : State} (h : FramerFollowsLink s)
    (rest : s.link.state.resting = true) (framed : t.framer.framed = s.framer.framed)
    (pendingCheck : t.framer.pendingCheck = s.framer.pendingCheck)
    (peerFlags : t.framer.peerFlags = s.framer.peerFlags) (nearEnd : t.framer.nearEnd = s.framer.nearEnd)
    (farEnd : t.framer.farEnd = s.framer.farEnd) : FramerFollowsLink t :=
  LinkMoves.follows ⟨framed, pendingCheck, peerFlags, nearEnd, farEnd, fun _ => rest, fun _ => .inl rest⟩ h

theorem FramerFollowsLink.tryIfReady {s : State} (h : FramerFollowsLink s) :
    FramerFollowsLink (tryIfReady s) := by
  unfold Machine.tryIfReady
  split
  · rename_i ready
    have down : s.link.state = .down := by
      simp only [Link.tryMayBegin, Bool.and_eq_true, beq_iff_eq] at ready
      exact ready.1.1.1.1.1
    exact h.stayAtRest (by simp [down, LinkState.resting]) rfl rfl rfl rfl rfl
  · exact h

theorem FramerFollowsLink.enterAnswering {s : State} (h : FramerFollowsLink s)
    (rest : s.link.state.resting = true) : FramerFollowsLink (enterAnswering s) :=
  h.stayAtRest rest rfl rfl rfl rfl rfl

theorem FramerFollowsLink.answerIfWilling {s : State} (h : FramerFollowsLink s) :
    FramerFollowsLink (answerIfWilling s) := by
  unfold Machine.answerIfWilling
  split
  · rename_i willing
    simp only [Bool.and_eq_true, beq_iff_eq] at willing
    exact h.enterAnswering (by simp [willing.1.1, LinkState.resting])
  · exact h

theorem FramerFollowsLink.leaveIfUnwanted {s : State} (h : FramerFollowsLink s) :
    FramerFollowsLink (leaveIfUnwanted s) := by
  unfold Machine.leaveIfUnwanted
  split
  · exact .of_traffic rfl (by simp [enterLeaving, clearMismatchRun])
  · exact h

theorem FramerFollowsLink.reviewClaims {s : State} (h : FramerFollowsLink s) :
    FramerFollowsLink (reviewClaims s) := by
  unfold Machine.reviewClaims
  split
  · split
    · exact h.answerIfWilling
    · exact h.tryIfReady
  · exact h.leaveIfUnwanted
  · exact h.leaveIfUnwanted
  · exact h

theorem FramerFollowsLink.removeClaim {s : State} (h : FramerFollowsLink s) (p : Port) :
    FramerFollowsLink (removeClaim p s) :=
  FramerFollowsLink.reviewClaims
    (LinkMoves.follows (t := { s with link := { s.link with claims := s.link.claims.set p false } })
      (.same rfl rfl rfl rfl rfl rfl) h)

/-- ALIGNING entered from rest (R27, R29, R30). -/
theorem FramerFollowsLink.enterAligning {s : State} (h : FramerFollowsLink s)
    (rest : s.link.state.resting = true) : FramerFollowsLink (enterAligning s) :=
  ⟨fun atRest => absurd atRest Bool.false_ne_true, fun _ => h.2 (.inl rest)⟩

/-! ## The outbound frame -/

theorem SameLink.moves {s t : State} (h : SameLink s t) : LinkMoves s t :=
  .same (by rw [h.link]) h.framed h.pendingCheck h.peerFlags h.nearEnd h.farEnd

theorem LinkMoves.trans {s t u : State} (h : LinkMoves s t) (k : LinkMoves t u) : LinkMoves s u :=
  ⟨k.framed.trans h.framed, k.pendingCheck.trans h.pendingCheck, k.peerFlags.trans h.peerFlags,
    k.nearEnd.trans h.nearEnd, k.farEnd.trans h.farEnd, h.rests ∘ k.rests,
    fun a => (k.aligns a).elim (fun rest => .inl (h.rests rest)) h.aligns⟩

theorem LinkMoves.beginPosition (s : State) : LinkMoves s (beginPosition s) := by
  have placed (u : State) : LinkMoves u { u with framer := { u.framer with
      positionMessage := u.service.slot } } := .same rfl rfl rfl rfl rfl rfl
  unfold Machine.beginPosition
  dsimp only
  split
  · exact (SameLink.positionBoundary s).moves.trans (placed _)
  · exact placed s

theorem LinkMoves.statusSent (s : State) : LinkMoves s (statusSent s) := by
  unfold Machine.statusSent
  dsimp only
  split_ifs <;> exact .same rfl rfl rfl rfl rfl rfl

theorem LinkMoves.beginService (f : FrameNo) (s : State) : LinkMoves s (beginService f s) := by
  have checked : LinkMoves s (beginOutCheck s) := .same rfl rfl rfl rfl rfl rfl
  unfold Machine.beginService
  split_ifs
  · exact checked.trans (.beginPosition _)
  · exact .beginPosition s
  · exact .same rfl rfl rfl rfl rfl rfl
  · exact .statusSent s
  · exact .refl s
  · exact .beginPosition s
  · exact .same rfl rfl rfl rfl rfl rfl
  · exact .refl s

theorem LinkMoves.beginFrame (order : ChannelOrder) (f : FrameNo) (s : State) :
    LinkMoves s (beginFrame order f s) := by
  have formed := ((LinkMoves.beginService f s).trans (ChannelStep.updateLoopPauses _).sameLink.moves).trans
    (TransferStep.formUnits (channelOrder order) (Vector.replicate 8 []) _).sameLink.moves
  unfold Machine.beginFrame
  dsimp only
  split
  · exact formed.trans (.same rfl rfl rfl rfl rfl rfl)
  · exact formed

theorem LinkMoves.countCycleStart (s : State) : LinkMoves s (countCycleStart s) :=
  .same rfl rfl rfl rfl rfl rfl

theorem LinkMoves.openCycle (s : State) : LinkMoves s (openCycle s) := by
  unfold Machine.openCycle
  split
  · exact .refl s
  · exact .same rfl rfl rfl rfl rfl rfl

theorem FramerFollowsLink.whenDue {due : State → Bool} {act : State → State} {s : State}
    (h : FramerFollowsLink s) (k : ∀ u, FramerFollowsLink u → FramerFollowsLink (act u)) :
    FramerFollowsLink (whenDue due act s) := by
  unfold Machine.whenDue
  split
  · exact k s h
  · exact h

theorem FramerFollowsLink.badStartExpires {s : State} (h : FramerFollowsLink s) :
    FramerFollowsLink (badStartExpires s) := LinkMoves.follows (.same rfl rfl rfl rfl rfl rfl) h

theorem FramerFollowsLink.runDue {s : State} (h : FramerFollowsLink s) (order : ChannelOrder) :
    FramerFollowsLink (runDue order s) :=
  (((((h.whenDue fun _ _ => (FramerCleared.failTry ..).follows).whenDue
    fun _ _ => (FramerCleared.leavingDone ..).follows).whenDue fun _ k => k.badStartExpires).whenDue
      fun u k => (SameLink.planTimeoutOp u).follows k).whenDue
        fun u k => (SameLink.planSwapOp order u).follows k).whenDue
          fun u k => (SameLink.bankAdoptionOp order u).follows k

theorem FramerFollowsLink.cycleStep {due : State → Bool} {act : State → State} {s : State}
    (h : FramerFollowsLink s) (k : ∀ u, FramerFollowsLink u → FramerFollowsLink (act u)) :
    FramerFollowsLink (cycleStep due act s) := by
  unfold Machine.cycleStep
  split
  · exact k _ ((LinkMoves.openCycle s).follows h)
  · exact h

theorem FramerFollowsLink.startFrame {s : State} (h : FramerFollowsLink s) (order : ChannelOrder) :
    FramerFollowsLink (startFrame order s) := by
  have entered : FramerFollowsLink (if (nextFrame s.framer.outFrame).val = 0 then
      Machine.runDue order (Machine.openCycle s) else s) := by
    split
    · exact ((LinkMoves.openCycle s).follows h).runDue order
    · exact h
  have numbered : FramerFollowsLink (setOutFrame (nextFrame s.framer.outFrame)
      (if (nextFrame s.framer.outFrame).val = 0 then Machine.runDue order (Machine.openCycle s) else s)) :=
    LinkMoves.follows (.same rfl rfl rfl rfl rfl rfl) entered
  have begins {u : State} (hu : FramerFollowsLink u) : FramerFollowsLink
      (if u.framer.role == .clock || framesSent u then beginFrame order (nextFrame s.framer.outFrame) u else u) := by
    split
    · exact (LinkMoves.beginFrame ..).follows hu
    · exact hu
  exact begins numbered

theorem FramerFollowsLink.catchUp {s : State} (h : FramerFollowsLink s) (order : ChannelOrder) :
    FramerFollowsLink (catchUp order s) := by
  unfold Machine.catchUp
  split
  · exact h.startFrame order
  · exact h

/-! ## The received frame -/

/-- No errors are counted in the states that still await traffic (R15). -/
theorem LinkState.counted_iff (l : LinkState) :
    l.counted = true ↔ l.resting = false ∧ l ≠ .aligning ∧ l ≠ .resync := by
  cases l <;> decide

theorem FramerFollowsLink.rejectCycle {s : State} (h : FramerFollowsLink s) :
    FramerFollowsLink (rejectCycle s) := by
  unfold Machine.rejectCycle
  dsimp only
  split
  · rename_i counted
    obtain ⟨awake, traffic, -⟩ := (LinkState.counted_iff _).1 counted
    exact .of_traffic awake traffic
  · exact LinkMoves.follows (.same rfl rfl rfl rfl rfl rfl) h

theorem SameLink.compareNumber (v own : Byte) (s : State) : SameLink s (compareNumber v own s) := by
  unfold Machine.compareNumber
  split_ifs <;> exact ⟨rfl, rfl, rfl, rfl, rfl, rfl, rfl⟩

/-- The received flags stored outside a state of rest (R12, R16). -/
theorem FramerFollowsLink.storeFlags {s : State} (h : FramerFollowsLink s)
    (awake : s.link.state.resting = false) (flags : Byte) : FramerFollowsLink (storeFlags flags s) := by
  refine ⟨fun rest => ?_, fun early => ?_⟩
  · change s.link.state.resting = true at rest
    simp [awake] at rest
  · change s.link.state.resting = true ∨ s.link.state = .aligning at early
    have uncounted : s.link.state.counted = false := by
      simp only [awake, Bool.false_eq_true, false_or] at early
      rw [early]
      rfl
    simpa [Machine.storeFlags, uncounted] using h.2 early

/-- The link's part of an acceptance ends at rest with the framer cleared, or in a state of traffic. -/
theorem FramerFollowsLink.linkAccepts {s : State} (awake : s.link.state.resting = false)
    (order : ChannelOrder) (flags v : Byte) : FramerFollowsLink (linkAccepts order flags v s) := by
  have leaves {u : State} (h : u.link.state.resting = false ∧ u.link.state ≠ .aligning) :
      FramerFollowsLink (applyLeaving flags u) := by
    unfold applyLeaving
    split_ifs
    · exact .of_traffic rfl (by simp [enterLeaving, clearMismatchRun])
    · exact (FramerFollowsLink.of_traffic h.1 h.2).leaveIfUnwanted
    · exact .of_traffic h.1 h.2
  have readies {u : State} (h : u.link.state.resting = false ∧ u.link.state ≠ .aligning) :
      (applyReady flags u).link.state.resting = false ∧ (applyReady flags u).link.state ≠ .aligning := by
    unfold applyReady
    split
    · exact ⟨rfl, by simp [enterUp]⟩
    · exact h
  unfold Machine.linkAccepts
  dsimp only
  split_ifs with clash aligning
  · exact (FramerCleared.roleClash ..).follows
  · refine leaves (readies ?_)
    unfold enterSynced
    dsimp only
    split <;> exact ⟨rfl, by simp [adoptNumber]⟩
  · exact leaves (readies ⟨awake, aligning⟩)

theorem SameLink.handPositions (x : ReceivedCycle) (s : State) : SameLink s (handPositions x s) :=
  (SameLink.positionReceived ..).trans (SameLink.positionReceived ..)

theorem FramerFollowsLink.decideCycle {s : State} (h : FramerFollowsLink s)
    (awake : s.link.state.resting = false) (order : ChannelOrder) :
    FramerFollowsLink (decideCycle order s) := by
  unfold Machine.decideCycle
  split
  · exact h
  · rename_i p _
    split
    · have compared := (SameLink.compareNumber p.cycle.number p.localCycle (Machine.storeFlags p.cycle.flags s)).trans
        (SameLink.passBank p.cycle.flags p.cycle.reference _)
      have linked := FramerFollowsLink.linkAccepts (by rw [compared.link]; exact awake) order p.cycle.flags
        p.cycle.number
      unfold acceptCycle
      dsimp only
      split
      · exact (SameLink.handPositions ..).follows linked
      · exact linked
    · exact h.rejectCycle

theorem FramerFollowsLink.endReceivedCycle {s : State} (h : FramerFollowsLink s)
    (awake : s.link.state.resting = false) (order : ChannelOrder) :
    FramerFollowsLink (endReceivedCycle order s) := by
  have decided := h.decideCycle awake order
  unfold Machine.endReceivedCycle
  dsimp only
  split
  · rename_i framed
    exact ⟨fun rest => absurd rest (by simp [decided.awake framed]), decided.2⟩
  · exact decided

theorem SameLink.gatherFrame (payload : Payload) (service : Byte) (s : State) :
    SameLink s (gatherFrame payload service s) := ⟨rfl, rfl, rfl, rfl, rfl, rfl, rfl⟩

theorem SameLink.handOver (order : ChannelOrder) (payload : Payload) (s : State) :
    SameLink s (handOver order payload s) := by
  have kept : SameLink s { s with framer := { s.framer with lastHanded := some payload } } :=
    ⟨rfl, rfl, rfl, rfl, rfl, rfl, rfl⟩
  unfold Machine.handOver
  split
  · exact kept.trans (TransferStep.deliverFrame ..).sameLink
  · exact .refl s

theorem SameLink.adoptProvisionally (service : Byte) (s : State) :
    SameLink s (adoptProvisionally service s) := by
  unfold Machine.adoptProvisionally
  split
  · exact ⟨rfl, rfl, rfl, rfl, rfl, rfl, rfl⟩
  · exact .refl s

theorem FramerFollowsLink.readFrame {s : State} (h : FramerFollowsLink s)
    (awake : s.link.state.resting = false) (order : ChannelOrder) (payload : Payload) (service : Byte) :
    FramerFollowsLink (readFrame order payload service s) := by
  have read := ((SameLink.gatherFrame payload service s).trans (SameLink.handOver order payload _)).trans
    (SameLink.adoptProvisionally service _)
  unfold Machine.readFrame
  refine LinkMoves.follows (s := if s.framer.dueFrame.val = 11 then _ else _)
    (.same rfl rfl rfl rfl rfl rfl) ?_
  split
  · exact (read.follows h).endReceivedCycle (by rw [read.link]; exact awake) order
  · exact read.follows h

theorem FramerFollowsLink.receivePlace {s : State} (h : FramerFollowsLink s)
    (framed : s.framer.framed = true) (order : ChannelOrder) (marker : Byte) (payload : Payload)
    (service : Byte) : FramerFollowsLink (receivePlace order marker payload service s) := by
  have judged (good : Bool) :
      SameLink s (judgeMarker good (if s.framer.dueFrame.val = 0 then openReceived s else s)) := by
    split <;> exact ⟨rfl, rfl, rfl, rfl, rfl, rfl, rfl⟩
  have awake := h.awake framed
  unfold Machine.receivePlace
  dsimp only
  generalize (marker == markerOf s.framer.dueFrame) = good
  have follows := (judged good).follows h
  have sameLink := (judged good).link
  generalize judgeMarker good (if s.framer.dueFrame.val = 0 then openReceived s else s) = t at follows sameLink
  have awakeThere : t.link.state.resting = false := by rw [sameLink]; exact awake
  split_ifs with resync lost
  · unfold resyncPlace
    dsimp only
    split_ifs
    · have regained : FramerFollowsLink
          { t with link := { t.link with state := .up, resyncCount := none } } := .of_traffic rfl (by simp)
      refine (regained.leaveIfUnwanted).readFrame ?_ order payload service
      unfold Machine.leaveIfUnwanted
      split <;> rfl
    · exact (FramerCleared.resyncLost ..).follows
    · exact LinkMoves.follows (.same rfl rfl rfl rfl rfl rfl) follows
  · unfold alignmentLost
    split
    · exact .of_traffic rfl (by simp [advanceDue, enterResync, clearMismatchRun, breakLook])
    · exact (FramerCleared.failTry ..).follows
    · rename_i aligning
      have zeros := follows.2 (.inr aligning)
      refine ⟨fun rest => absurd rest (by change ¬ t.link.state.resting = true; simp [awakeThere]),
        fun _ => ?_⟩
      unfold loseFraming
      dsimp only
      split <;> exact zeros
    · exact follows.readFrame awakeThere order payload service
  · exact follows.readFrame awakeThere order payload service

/-! ## The hunt -/

theorem FramerFollowsLink.frameFromMarker {s : State} (h : FramerFollowsLink s)
    (aligning : s.link.state = .aligning) : FramerFollowsLink (frameFromMarker s) :=
  ⟨fun rest => absurd rest (by simp [Machine.frameFromMarker, aligning, LinkState.resting]),
    fun _ => h.2 (.inr aligning)⟩

theorem FramerFollowsLink.huntStep {s : State} (h : FramerFollowsLink s)
    (aligning : s.link.state = .aligning) (found : Option Byte) : FramerFollowsLink (huntStep found s) := by
  have counted (n : Nat) : FramerFollowsLink (setHunt s n) :=
    LinkMoves.follows (.same rfl rfl rfl rfl rfl rfl) h
  unfold Machine.huntStep
  split_ifs
  · exact counted _
  · exact counted _
  · unfold completeHunt
    refine (LinkMoves.beginFrame ..).follows (LinkMoves.follows ?_ (h.frameFromMarker aligning))
    exact .same rfl rfl rfl rfl rfl rfl
  · exact counted _

end Sys2Proof.Machine
end

section
/-! SUPPORT. What the close of a channel leaves, and what every command keeps of the invariants. -/

namespace Sys2Proof.Machine

open Sys2Proof

/-! ## The parts of a close -/

@[simp] theorem leaveGate_channel (s : State) (c : ChannelNo) (k : CellNo) (d : ChannelNo) :
    (leaveGate s c k).channel d = s.channel d := rfl

@[simp] theorem leaveIfWaiting_channel (s : State) (c d : ChannelNo) :
    (leaveIfWaiting s c).channel d = s.channel d := by
  unfold leaveIfWaiting
  split
  · split <;> rfl
  · rfl

@[simp] theorem leaveIfWaiting_port (s : State) (c : ChannelNo) (p : Port) :
    (leaveIfWaiting s c).port p = s.port p := by
  unfold leaveIfWaiting
  split
  · split <;> rfl
  · rfl

@[simp] theorem unbindArea_channel (s : State) (a : Option AreaNo) (c : ChannelNo) :
    (unbindArea s a).channel c = s.channel c := by
  cases a <;> rfl

@[simp] theorem unbindArea_port (s : State) (a : Option AreaNo) (p : Port) :
    (unbindArea s a).port p = s.port p := by
  cases a <;> rfl

@[simp] theorem unbindArea_cell (s : State) (a : Option AreaNo) (k : CellNo) :
    (unbindArea s a).cell k = s.cell k := by
  cases a <;> rfl

@[simp] theorem closeInPlan_channel (s : State) (c d : ChannelNo) :
    (closeInPlan s c).channel d = s.channel d := by
  unfold closeInPlan
  split <;> rfl

@[simp] theorem closeInPlan_port (s : State) (c : ChannelNo) (p : Port) :
    (closeInPlan s c).port p = s.port p := by
  unfold closeInPlan
  split <;> rfl

@[simp] theorem closeInPlan_cell (s : State) (c : ChannelNo) (k : CellNo) :
    (closeInPlan s c).cell k = s.cell k := by
  unfold closeInPlan
  split <;> rfl

/-- A close leaves the channel CLOSED and the others as they were (R120). -/
@[simp] theorem closeRecord_channel (s : State) (c d : ChannelNo) :
    (closeRecord s c).channel d = if d = c then Channel.closed else s.channel d := by
  simp [closeRecord]

@[simp] theorem closeRecord_port (s : State) (c : ChannelNo) (p : Port) :
    (closeRecord s c).port p = s.port p := by
  simp [closeRecord]

@[simp] theorem closeRecord_cell (s : State) (c : ChannelNo) (k : CellNo) :
    (closeRecord s c).cell k = (leaveIfWaiting s c).cell k := by
  simp [closeRecord]

/-- A close by PORT RESET takes the channel's orders from its owner's count (R121). -/
@[simp] theorem discardChannel_channel (s : State) (c d : ChannelNo) :
    (discardChannel s c).channel d = if d = c then Channel.closed else s.channel d := by
  unfold discardChannel
  split <;> simp

theorem WaitersMatchAmong.closeRecord {s : State} {c : ChannelNo}
    (h : WaitersMatchBut c (leaveIfWaiting s c)) : WaitersMatch (closeRecord s c) := by
  refine (waitersMatch_iff_but (c := c) (by simp [Channel.closed])).2 (h.congr (by simp) ?_ ?_) <;>
    · intro d hd
      simp [hd]

/-- The channel's list left twice is left once: its queue then names no gate. -/
theorem leaveIfWaiting_of_empty {s : State} {c : ChannelNo} (h : (s.channel c).queue = []) :
    leaveIfWaiting s c = s := by
  unfold leaveIfWaiting
  rw [h]
  split <;> rfl

/-! ## The end of every order of a channel -/

/-- A change of cells and gates leaves the queues: no order moves. -/
theorem gateTake_queue (s : State) (k : CellNo) (w : ChannelNo) (rest : List ChannelNo) (d : ChannelNo) :
    ((gateTake s k w rest).channel d).queue = (s.channel d).queue := by
  unfold gateTake
  have written (u : State) (v : Word) : (u.writeCell k v).channel d = u.channel d := by
    unfold State.writeCell
    split <;> simp
  by_cases hd : d = w
  · subst hd
    simp [written]
  · simp [hd, written]

theorem gateTakes_queue (k : CellNo) (ws : List ChannelNo) (d : ChannelNo) :
    ∀ s : State, ((gateTakes k ws s).1.channel d).queue = (s.channel d).queue := by
  induction ws with
  | nil => exact fun _ => rfl
  | cons w rest ih =>
    intro s
    simp only [gateTakes]
    split
    · rfl
    · rw [ih, gateTake_queue]

@[simp] theorem writeCell_channel (s : State) (k : CellNo) (v : Word) (d : ChannelNo) :
    (s.writeCell k v).channel d = s.channel d := by
  unfold State.writeCell
  split <;> simp

@[simp] theorem incrementCell_queue (s : State) (k : CellNo) (d : ChannelNo) :
    ((incrementCell s k).channel d).queue = (s.channel d).queue := by
  unfold incrementCell gateRule
  rw [gateTakes_queue, writeCell_channel]

@[simp] theorem countCompletion_queue (s : State) (o : Order) (r : OrderOutcome) (d : ChannelNo) :
    ((countCompletion s o r).channel d).queue = (s.channel d).queue := by
  unfold countCompletion
  split
  · split <;> simp
  · rfl

@[simp] theorem recordEnd_channel (s : State) (c : ChannelNo) (o : Order) (r : OrderOutcome)
    (d : ChannelNo) : (recordEnd s c o r).channel d = s.channel d := by
  unfold recordEnd
  split <;> rfl

/-- The end of the head order takes it from the queue (R127, step 1). -/
theorem endHead_queue (s : State) (c : ChannelNo) (r : OrderOutcome) (d : ChannelNo) :
    ((endHead s c r).channel d).queue =
      if d = c then (s.channel c).queue.tail else (s.channel d).queue := by
  unfold endHead
  split
  · rename_i empty
    split
    · rename_i hd
      rw [hd, empty]
      rfl
    · rfl
  · rename_i o rest hq
    by_cases hd : d = c <;> simp [hd, hq]

/-- All orders ended, as many as the queue holds (R120, R124). -/
theorem abortOrders_queue (c : ChannelNo) (l : List Order) :
    ∀ s : State, l.length = (s.channel c).queue.length → ((abortOrders c l s).channel c).queue = [] := by
  induction l with
  | nil => exact fun s h => List.length_eq_zero_iff.1 h.symm
  | cons o l ih =>
    intro s h
    refine ih _ ?_
    rw [endHead_queue, if_pos rfl, List.length_tail, ← h]
    rfl

namespace KeepsOrders

/-- A channel whose orders have ended is closed. -/
theorem closeChannelOp (s : State) (c : ChannelNo) : KeepsOrders s (closeChannelOp s c) := by
  have empty : ((abortOrders c ((leaveIfWaiting s c).channel c).queue (leaveIfWaiting s c)).channel c).queue
      = [] := abortOrders_queue c _ _ rfl
  refine ⟨fun h => ?_, fun h => ?_⟩
  · have ended := OrdersCounted.abortOrders c ((leaveIfWaiting s c).channel c).queue
      ((QuietStep.leaveIfWaiting s c).keeps h)
    unfold Machine.closeChannelOp Machine.closeRecord
    dsimp only
    rw [leaveIfWaiting_of_empty empty]
    refine OrdersCounted.closed ((QuietStep.of_channels ?_ ?_).keeps ended) ?_
    · unfold closeInPlan unbindArea
      split <;> split <;> rfl
    · simp
    · simpa using empty
  · refine WaitersMatchAmong.closeRecord ?_
    rw [leaveIfWaiting_of_empty empty]
    exact (h.leaveIfWaiting c).abortOrders c _

/-- A channel's orders are discarded, and leave its owner's count (R121). -/
theorem discardChannel (s : State) (c : ChannelNo) : KeepsOrders s (discardChannel s c) := by
  refine ⟨fun h => ?_, fun h => ?_⟩
  · refine h.step c (fun d hd => by simp [hd]) (fun _ => by simp) (fun p => ?_) (fun p => ?_)
    · unfold Machine.discardChannel
      split
      · rename_i q ho
        have := h.queue_le ho
        by_cases hp : p = q
        · subst hp
          simp [share, Channel.closed, ho]
          omega
        · simp [share, Channel.closed, ho, hp, Ne.symm hp]
      · rename_i ho
        simp [share, Channel.closed, ho]
    · have room := (h.2 p).2
      unfold Machine.discardChannel
      split
      · rename_i q _
        by_cases hp : p = q
        · subst hp
          simp
          omega
        · simpa [hp] using room
      · simpa using room
  · have left (u : State) (hc : ∀ d, u.channel d = s.channel d) (hk : ∀ k, u.cell k = s.cell k) :
        WaitersMatch (closeRecord u c) :=
      WaitersMatchAmong.closeRecord ((h.apart hk hc).leaveIfWaiting c)
    unfold Machine.discardChannel
    split
    · exact left _ (fun _ => rfl) fun _ => rfl
    · exact left _ (fun _ => rfl) fun _ => rfl

theorem foldl {α : Type} {f : State → α → State} (h : ∀ s x, KeepsOrders s (f s x)) (l : List α) :
    ∀ s, KeepsOrders s (l.foldl f s) := by
  induction l with
  | nil => exact refl
  | cons x l ih => exact fun s => (h s x).trans (ih _)

end KeepsOrders

/-! ## What a command keeps -/

theorem Area.ringInRange_of_none {a : Area} (hf : a.first = none) (hc : a.count = none) :
    a.ringInRange ↔ a.readPos = 0 ∧ a.writePos = 0 ∧ a.fill = 0 := by
  rw [Area.ringInRange, hf, hc]

theorem Area.ringInRange_of_some {a : Area} {f n : Nat} (hf : a.first = some f) (hc : a.count = some n) :
    a.ringInRange ↔ 1 ≤ n ∧ f + n ≤ 256 ∧ a.readPos < a.size ∧ a.fill ≤ a.size ∧
      a.writePos = (a.readPos + a.fill) % a.size := by
  rw [Area.ringInRange, hf, hc]

/-- A ring in range has a first block exactly where it has a block count (R102). -/
theorem Area.ringInRange.blocks {a : Area} (h : a.ringInRange) :
    (a.first = none ∧ a.count = none) ∨ ∃ f n, a.first = some f ∧ a.count = some n := by
  unfold Area.ringInRange at h
  split at h
  · exact .inl ⟨‹_›, ‹_›⟩
  · exact .inr ⟨_, _, ‹_›, ‹_›⟩
  · exact h.elim

/-- An emptied ring is in range (R106). -/
theorem Area.ringInRange_emptied {a : Area} (h : a.ringInRange) : a.emptied.ringInRange := by
  obtain ⟨hf, hc⟩ | ⟨f, n, hf, hc⟩ := h.blocks
  · exact (Area.ringInRange_of_none (a := a.emptied) hf hc).2 ⟨rfl, rfl, rfl⟩
  · obtain ⟨some, fits, read, -⟩ := (Area.ringInRange_of_some hf hc).1 h
    refine (Area.ringInRange_of_some (a := a.emptied) hf hc).2 ⟨some, fits, ?_, Nat.zero_le _, ?_⟩
    · exact (Nat.zero_le a.readPos).trans_lt read
    · simp [Area.emptied]

/-- What a step that is no transaction keeps of the invariants. -/
structure Preserves (s t : State) : Prop where
  keeps : Keeps s t
  orders : KeepsOrders s t
  follows : FramerFollowsLink s → FramerFollowsLink t

namespace Preserves

theorem refl (s : State) : Preserves s s := ⟨.refl s, .refl s, id⟩

theorem trans {s t u : State} (h : Preserves s t) (k : Preserves t u) : Preserves s u :=
  ⟨h.keeps.trans k.keeps, h.orders.trans k.orders, k.follows ∘ h.follows⟩

theorem ite {s t u : State} {p : Prop} [Decidable p] (h : p → Preserves s t) (k : ¬p → Preserves s u) :
    Preserves s (if p then t else u) := by
  split
  · exact h ‹_›
  · exact k ‹_›

theorem after {s t u : State} (k : Preserves t u) (h : Preserves s t) : Preserves s u := h.trans k

/-- A step of the channel table. -/
theorem channel {s t : State} (h : ChannelStep s t) (o : KeepsOrders s t) : Preserves s t :=
  ⟨h.keeps, o, h.sameLink.follows⟩

theorem setPort {s : State} {p : Port} {q : PortState}
    (h : (s.port p).eventsInRange → q.eventsInRange)
    (pins : q.transaction = (s.port p).transaction ∧ q.sdo = (s.port p).sdo)
    (count : q.orderCount = (s.port p).orderCount) (records : q.completions = (s.port p).completions) :
    Preserves s (s.setPort p q) :=
  channel (ChannelStep.setPort h pins) (.setPort count records)

theorem raise (s : State) (p : Port) (e : Event) : Preserves s (s.raise p e) :=
  channel (ChannelStep.raise s p e) (.raise s p e)

theorem raiseAll (s : State) (e : Event) : Preserves s (s.raiseAll e) :=
  channel (ChannelStep.raiseAll s e) (.raiseAll s e)

theorem complete (p : Port) (r : Reply) (s : State) : Preserves s (complete p r s) := by
  have finished : KeepsOrders s (s.setPort p ((s.port p).finish r)) := .setPort rfl rfl
  exact ⟨.complete p r s, finished.trans (.apart rfl rfl rfl), (SameLink.ofEq rfl rfl).follows⟩

/-- A command keeps what its action keeps, taken or not. -/
theorem takeCommand {b : Bool} {p : Port} {act : State → Reply × State} {s t : State}
    (h : ∀ u, Preserves u (act u).2) (e : takeCommand b p act s = .next t) : Preserves s t := by
  unfold Machine.takeCommand at e
  split at e
  · cases e
    exact (h s).trans (complete ..)
  · cases e
    exact refl s

/-! ## The link and the framer -/

theorem reviewClaims (s : State) : Preserves s (reviewClaims s) :=
  ⟨.reviewClaims s, .reviewClaims s, fun h => h.reviewClaims⟩

theorem removeClaim (p : Port) (s : State) : Preserves s (removeClaim p s) :=
  ⟨.removeClaim p s, .removeClaim p s, fun h => h.removeClaim p⟩

theorem linkUp (p : Port) (s : State) : Preserves s (linkUp p s).2 := by
  have claimed : Preserves s { s with link := { s.link with
      claims := s.link.claims.set p true, tryCount := s.link.tryCountAfterLinkUp } } := by
    refine ⟨Keeps.link fun ⟨tries, rest⟩ => ⟨?_, rest⟩, .apart rfl rfl rfl,
      LinkMoves.follows (.same rfl rfl rfl rfl rfl rfl)⟩
    unfold Link.tryCountAfterLinkUp
    split
    · exact tries
    · exact Nat.zero_le _
  exact (reviewClaims _).after claimed

theorem counters (p : Port) (s : State) : Preserves s (counters p s).2 := by
  rw [counters_state]
  refine ite (fun _ => refl s) fun _ => ⟨Keeps.framer id, .apart rfl rfl rfl, fun h => ?_⟩
  exact ⟨h.1, fun _ => ⟨rfl, rfl⟩⟩

/-! ## The service channel -/

theorem writeAnswer (s : State) (m : Message) (a : AnswerSource) : Preserves s (writeAnswer s m a) :=
  ⟨.writeAnswer s m a, .writeAnswer s m a, (SameLink.writeAnswer s m a).follows⟩

theorem sendService (p : Port) (s : State) : Preserves s (sendService p s).2 := by
  unfold Machine.sendService
  split
  · exact refl s
  · split
    · exact refl s
    · exact ⟨Keeps.origin fun _ => by simpa using by omega, .apart rfl rfl rfl, (SameLink.service ..).follows⟩

theorem sendServiceAnswer (p : Port) (s : State) : Preserves s (sendServiceAnswer p s).2 := by
  unfold Machine.sendServiceAnswer
  split
  · exact refl s
  · exact writeAnswer ..

theorem takeReport (p : Port) (s : State) : Preserves s (takeReport p s).2 := by
  unfold Machine.takeReport
  split
  · exact refl s
  · split
    · exact refl s
    · rename_i r rest hr
      refine ⟨Keeps.service fun ⟨origin, await, reports, others⟩ => ⟨origin, await, ?_, others⟩,
        .apart rfl rfl rfl, (SameLink.service ..).follows⟩
      simp only [hr, List.length_cons] at reports
      exact (Nat.le_succ _).trans reports

/-- A MAINT row keeps what its action keeps (R65). -/
theorem maint (p : Port) (action : Byte) {effect : State → Option State}
    (h : ∀ s t, effect s = some t → Preserves s t) (s : State) : Preserves s (maint p action effect s).2 := by
  unfold Machine.maint
  split_ifs
  · exact refl s
  · exact refl s
  · exact refl s
  · split
    · exact h _ _ ‹_›
    · exact refl s

theorem setLoops (s : State) (v : Vector Bool 24) : Preserves s (setLoops s v) :=
  ⟨.setLoops s v, .setLoops s v, (SameLink.service ..).follows⟩

theorem setBadChecks (s : State) (b : Bool) : Preserves s (setBadChecks s b) :=
  ⟨.setBadChecks s b, .apart rfl rfl rfl, (SameLink.setBadChecks s b).follows⟩

theorem stopBadStart (s : State) : Preserves s (setBadStart s none) :=
  ⟨.setBadStart (atMost_none 4), .apart rfl rfl rfl, (SameLink.service ..).follows⟩

theorem setBlind (s : State) (b : Bool) : Preserves s (setBlind s b) :=
  ⟨.setBlind s b, .apart rfl rfl rfl, (SameLink.setBlind s b).follows⟩

theorem clearTests (s : State) : Preserves s (clearTests s) :=
  ⟨.clearTests s, .clearTests s, (SameLink.clearTests s).follows⟩

/-! ## The slot plan and the plan exchange -/

theorem plan (s : State) (x : SlotPlan) : Preserves s { s with plan := x } :=
  ⟨.plan s x, .apart rfl rfl rfl, (SameLink.ofEq rfl rfl).follows⟩

theorem slotAssign (p : Port) (s : State) : Preserves s (slotAssign p s).2 := by
  unfold Machine.slotAssign
  split
  · split_ifs
    · exact refl s
    · exact refl s
    · exact refl s
    · exact refl s
    · exact plan ..
  · exact refl s

theorem slotFree (p : Port) (s : State) : Preserves s (slotFree p s).2 := by
  unfold Machine.slotFree
  split
  · split
    · exact refl s
    · split
      · exact refl s
      · split
        · exact refl s
        · exact plan ..
  · exact refl s

theorem planSwitch (p : Port) (s : State) : Preserves s (planSwitch p s).2 := by
  unfold Machine.planSwitch
  split_ifs
  · exact refl s
  · exact refl s
  · exact refl s
  · refine trans (t := appendPlan s (planMessage codePlanOffer (offerDigest s.plan.shadowTables)))
      ⟨.appendPlan .., .appendPlan .., (SameLink.appendPlan ..).follows⟩ ?_
    exact ⟨Keeps.exchange fun ⟨_, run⟩ => ⟨Nat.zero_le _, run⟩, .apart rfl rfl rfl,
      (SameLink.exchange ..).follows⟩

theorem endExchange (s : State) (k : PlanOutcomeKind) (r : Option RefusalReason) (b : Bool) :
    Preserves s (endExchange s k r b) :=
  ⟨.endExchange s k r b, .endExchange s k r b, (SameLink.endExchange s k r b).follows⟩

theorem planWithdraw (s : State) : Preserves s (planWithdraw s).2 := by
  unfold Machine.planWithdraw
  split
  · refine trans (t := sendWithdraw s) ?_ (endExchange ..)
    exact ⟨.sendWithdraw s, .sendWithdraw s, (SameLink.sendWithdraw s).follows⟩
  · exact refl s
  · exact refl s

/-! ## The areas -/

theorem setArea {s : State} {n : AreaNo} {x : Area} (h : (s.area n).ringInRange → x.ringInRange) :
    Preserves s (s.setArea n x) := ⟨.setArea h, .apart rfl rfl rfl, (SameLink.ofEq rfl rfl).follows⟩

theorem shapeArea (p : Port) (s : State) : Preserves s (shapeArea p s).2 := by
  unfold Machine.shapeArea
  dsimp only
  split
  · exact refl s
  · split_ifs with size held bound range overlap
    · exact refl s
    · exact refl s
    · exact refl s
    · exact refl s
    · exact refl s
    · refine setArea fun _ => ?_
      simp only [Bool.or_eq_true, decide_eq_true_eq, not_or, not_lt] at size
      simp only [Area.ringInRange, Area.shaped, Area.size, Option.getD_some]
      refine ⟨size.1, ?_, ?_, ?_, ?_⟩
      · omega
      · omega
      · omega
      · simp

theorem dropArea (p : Port) (s : State) : Preserves s (dropArea p s).2 := by
  unfold Machine.dropArea
  split
  · exact refl s
  · split_ifs
    · exact refl s
    · exact refl s
    · exact refl s
    · exact setArea fun _ => ⟨rfl, rfl, rfl⟩

theorem clearArea (p : Port) (s : State) : Preserves s (clearArea p s).2 := by
  unfold Machine.clearArea
  split
  · exact refl s
  · split_ifs
    · exact refl s
    · exact refl s
    · exact refl s
    · exact setArea Area.ringInRange_emptied

end Preserves

end Sys2Proof.Machine
end

section
/-! SUPPORT. What every row of the table keeps of the invariants. -/

namespace Sys2Proof.Machine

open Sys2Proof

/-- Bit by bit: an event set that loses events, or a mask of events, keeps to the fourteen (R162, R163). -/
theorem eventBits_and_of_and {x : Word} (y : Word) (h : x &&& eventBits = x) :
    x &&& y &&& eventBits = x &&& y := by
  rw [BitVec.and_assoc, BitVec.and_comm y, ← BitVec.and_assoc, h]

/-! ## The ports and the areas that PORT RESET releases -/

/-- No channel is left with the port as its owner once the port's open channels are closed (R121). -/
theorem closeOwned_foldl_channel (p : Port) (d : ChannelNo) (l : List ChannelNo) :
    ∀ s : State, (l.foldl (fun s c =>
        if (s.channel c).isOpen && (s.channel c).owner == some p then discardChannel s c else s) s).channel d =
      if d ∈ l ∧ (s.channel d).isOpen ∧ (s.channel d).owner = some p then Channel.closed else s.channel d := by
  induction l with
  | nil => simp
  | cons c l ih =>
    intro s
    have closedOwner : ¬ (Channel.closed.isOpen = true ∧ Channel.closed.owner = some p) := by
      simp [Channel.closed]
    rw [List.foldl_cons, ih]
    by_cases hd : d = c
    · subst hd
      by_cases owned : (s.channel d).isOpen = true ∧ (s.channel d).owner = some p
      · simp [owned, closedOwner]
      · have kept : ((s.channel d).isOpen && (s.channel d).owner == some p) = false := by
          simpa using owned
        simp [owned, kept]
    · split <;> simp [hd]

/-- The port's open channels are CLOSED, and the others as they were (R121). -/
@[simp] theorem closeOwned_channel (p : Port) (s : State) (d : ChannelNo) :
    (closeOwned p s).channel d =
      if (s.channel d).isOpen ∧ (s.channel d).owner = some p then Channel.closed else s.channel d := by
  unfold closeOwned
  rw [closeOwned_foldl_channel]
  simp

namespace KeepsOrders

theorem closeOwned (p : Port) (s : State) : KeepsOrders s (closeOwned p s) :=
  foldl (fun _ _ => ite (fun _ => discardChannel ..) fun _ => refl _) _ s

end KeepsOrders

/-- A port without channels has no orders to count (R117, R169). -/
theorem OrdersCounted.clearPort {s : State} (h : OrdersCounted s) {p : Port} {q : PortState}
    (hq : q.orderCount = 0 ∧ q.completions = []) (free : ∀ c, (s.channel c).owner ≠ some p) :
    OrdersCounted (s.setPort p q) := by
  refine (ordersCounted_iff _).2 ⟨h.1, fun r => ?_⟩
  by_cases hr : r = p
  · subst hr
    have noOrders : ordersOf (s.setPort r q) r = 0 := by simp [ordersOf, share, free]
    rw [noOrders]
    simp [hq]
  · have before := ((ordersCounted_iff s).1 h).2 r
    rwa [State.setPort_port, if_neg hr]

/-! ## The end of orders that no completion cell counts -/

/-- An order that ends neither DONE nor SHORT raises no cell: its channel's queue and its owner's records
alone change (R127). -/
theorem countCompletion_of_uncounted {r : OrderOutcome} (hd : r ≠ .done) (hs : r ≠ .short) (s : State)
    (o : Order) : countCompletion s o r = s := by
  simp [countCompletion, hd, hs]

theorem endHead_channel_of_uncounted {r : OrderOutcome} (hd : r ≠ .done) (hs : r ≠ .short) (s : State)
    (c d : ChannelNo) : (endHead s c r).channel d =
      if d = c then { s.channel c with queue := (s.channel c).queue.tail } else s.channel d := by
  unfold endHead
  split
  · rename_i empty
    split
    · rename_i hdc
      simp only [hdc, empty, List.tail_nil]
      rw [← empty]
    · rfl
  · rename_i o rest hq
    rw [countCompletion_of_uncounted hd hs, recordEnd_channel, State.setChannel_channel, hq, List.tail_cons]

/-- The orders of a channel end ABORTED, and nothing else of any channel changes (R120, R124). -/
theorem abortOrders_channel (c : ChannelNo) (l : List Order) (d : ChannelNo) :
    ∀ s : State, (abortOrders c l s).channel d =
      if d = c then { s.channel c with queue := (s.channel c).queue.drop l.length } else s.channel d := by
  induction l with
  | nil =>
    intro s
    split
    · rename_i hd
      simp [abortOrders, hd]
    · rfl
  | cons o l ih =>
    intro s
    rw [abortOrders, ih, endHead_channel_of_uncounted (by simp) (by simp),
      endHead_channel_of_uncounted (by simp) (by simp)]
    by_cases hd : d = c <;> simp [hd]

/-! ## The commands of the channels and the cells -/

namespace Preserves

theorem openChannel (p : Port) (s : State) : Preserves s (openChannel p s).2 := by
  unfold Machine.openChannel
  split
  · rename_i c d n _ _ _
    split
    · exact refl s
    rename_i closed
    split_ifs
    · exact refl s
    · exact refl s
    · exact refl s
    · exact refl s
    · have wasClosed : (s.channel c).state = .closed := by simpa [Channel.isOpen] using closed
      have opened : Preserves s (s.setChannel c (Channel.opened p d n)) := by
        refine channel (.setChannel (Nat.zero_le _)) ⟨fun h => h.opened p d n wasClosed, fun h => ?_⟩
        refine (waitersMatch_iff_but (by simp [Channel.opened])).2 (WaitersMatchAmong.setChannel ?_ _)
        exact (waitersMatch_iff_but (by simp [wasClosed])).1 h
      exact (setArea (n := n) (by simp [Area.ringInRange, Area.size])).after opened
  · exact refl s

/-- A command on a channel keeps what its last checks and effect keep. -/
theorem onOwnChannel (p : Port) (valid : Bool) {act : ChannelNo → State → Reply × State} {s : State}
    (h : ∀ c, (s.channel c).isOpen = true → (s.channel c).owner = some p → Preserves s (act c s).2) :
    Preserves s (onOwnChannel p valid act s).2 := by
  unfold Machine.onOwnChannel
  split
  · exact refl s
  · split_ifs with invalid closed foreign
    · exact refl s
    · exact refl s
    · exact refl s
    · exact h _ (by simpa using closed) (by simpa using foreign)

theorem closeOwn (c : ChannelNo) (s : State) : Preserves s (closeOwn c s).2 := by
  unfold Machine.closeOwn
  split
  · exact refl s
  · exact ⟨.closeChannelOp s c, .closeChannelOp s c, (SameLink.closeChannelOp s c).follows⟩

theorem becomeCurrent {s : State} {c : ChannelNo} (h : (s.channel c).state ≠ .waiting) :
    Preserves s (becomeCurrent s c) :=
  channel (.becomeCurrent s c) ⟨(QuietStep.becomeCurrent s c).keeps, fun w =>
    ((waitersMatch_iff_but h).1 w).becomeCurrent⟩

/-- An order joins the tail of a queue of fewer than 4, while the port has room for its record (R122). -/
theorem appendOrder {p : Port} {c : ChannelNo} (o : Order) {s : State} (hc : (s.channel c).isOpen = true)
    (ho : (s.channel c).owner = some p) (fits : (s.channel c).queue.length < 4)
    (room : (s.port p).orderCount + (s.port p).completions.length < 16) :
    Preserves s (appendOrder p c o s) := by
  have openState : (s.channel c).state ≠ .closed := by simpa [Channel.isOpen] using hc
  refine ⟨⟨id, fun h => EventsInRange.setPort (s := s.setChannel c _) h (h p), id, id, fun h => ?_, rfl,
    SamePins.setPort (s := s.setChannel c _) ⟨rfl, rfl⟩⟩, ⟨fun h => h.appendOrder o openState ho room,
      fun h => ?_⟩, (SameLink.ofEq rfl rfl).follows⟩
  · obtain ⟨link, framer, service, exchange, queues⟩ := h
    refine ⟨link, framer, service, exchange, fun d => ?_⟩
    by_cases hd : d = c
    · simpa [Machine.appendOrder, hd] using fits
    · simpa [Machine.appendOrder, hd] using queues d
  · by_cases waiting : (s.channel c).state = .waiting
    · have gated := h.2.2 c waiting
      refine h.congr (fun _ => rfl) (fun d => ?_) (fun d => ?_) <;> by_cases hd : d = c
      · simp [Machine.appendOrder, hd]
      · simp [Machine.appendOrder, hd]
      · cases hq : (s.channel c).queue with
        | nil => simp [hq] at gated
        | cons => simp [Machine.appendOrder, hd, Channel.headGate, hq]
      · simp [Machine.appendOrder, hd]
    · refine (waitersMatch_iff_but (c := c) (by simpa [Machine.appendOrder] using waiting)).2 ?_
      exact WaitersMatchAmong.congr (((waitersMatch_iff_but waiting).1 h).setChannel _) (fun _ => rfl)
        (fun _ _ => rfl) (fun _ _ => rfl)

theorem postOwn (o : Order) {p : Port} {c : ChannelNo} {s : State} (hc : (s.channel c).isOpen = true)
    (ho : (s.channel c).owner = some p) : Preserves s (postOwn p o c s).2 := by
  unfold Machine.postOwn
  split_ifs with full crowded idle
  · exact refl s
  · exact refl s
  · refine trans (appendOrder o hc ho (not_le.1 full) (not_le.1 crowded)) (becomeCurrent ?_)
    simp [Machine.appendOrder, idle]
  · exact appendOrder o hc ho (not_le.1 full) (not_le.1 crowded)

theorem postOrder (p : Port) (s : State) : Preserves s (postOrder p s).2 := by
  unfold Machine.postOrder
  dsimp only
  split
  · exact onOwnChannel p _ fun c hc ho => postOwn _ hc ho
  · exact refl s

theorem abortCurrentOwn (c : ChannelNo) (s : State) : Preserves s (abortCurrentOwn c s).2 := by
  unfold Machine.abortCurrentOwn
  split
  · refine channel ((ChannelStep.leaveIfWaiting s c).trans (.endAndAdvance ..)) ⟨fun h => ?_, fun h => ?_⟩
    · exact ((QuietStep.leaveIfWaiting s c).keeps h).endAndAdvance c _
    · exact (h.leaveIfWaiting c).endAndAdvance _
  · exact refl s

theorem abortAllOwn (c : ChannelNo) (s : State) : Preserves s (abortAllOwn c s).2 := by
  have aborted := (ChannelStep.leaveIfWaiting s c).trans
    (.abortOrders c ((leaveIfWaiting s c).channel c).queue (leaveIfWaiting s c))
  have counted (h : OrdersCounted s) := OrdersCounted.abortOrders c ((leaveIfWaiting s c).channel c).queue
    ((QuietStep.leaveIfWaiting s c).keeps h)
  have matched (h : WaitersMatch s) :=
    (h.leaveIfWaiting c).abortOrders c ((leaveIfWaiting s c).channel c).queue
  unfold Machine.abortAllOwn
  dsimp only
  split
  · rename_i halted
    refine channel aborted ⟨counted, fun h => (waitersMatch_iff_but (c := c) ?_).2 (matched h)⟩
    simp [abortOrders_channel, halted]
  · refine channel (aborted.trans (.setChannelState ..))
      ⟨fun h => (QuietStep.setChannelState _ c (by simp)).keeps (counted h), fun h => ?_⟩
    exact (waitersMatch_iff_but (c := c) (by simp)).2 ((matched h).setChannel _)

theorem resumeOwn (c : ChannelNo) (s : State) : Preserves s (resumeOwn c s).2 := by
  unfold Machine.resumeOwn
  split_ifs with awake small
  · exact refl s
  · exact refl s
  · have halted : (s.channel c).state = .halted := by simpa using awake
    refine (becomeCurrent (by simp [halted])).after (channel (.setChannel le_rfl) ⟨?_, fun h => ?_⟩)
    · exact fun h => QuietStep.keeps (.setChannel rfl rfl fun closed => by simp [halted] at closed) h
    · refine (waitersMatch_iff_but (c := c) (by simp [halted])).2 (WaitersMatchAmong.setChannel ?_ _)
      exact (waitersMatch_iff_but (by simp [halted])).1 h

theorem channelStatus (p : Port) (s : State) : Preserves s (channelStatus p s).2 := by
  unfold Machine.channelStatus
  split
  · exact refl s
  · refine ite (fun _ => ?_) fun _ => refl s
    exact ⟨Keeps.trunk rfl rfl rfl rfl rfl rfl id id id id, .apart rfl rfl rfl, (SameLink.ofEq rfl rfl).follows⟩

/-- A record taken leaves one more place for an order (R122, R164). -/
theorem takeCompletion (p : Port) (s : State) : Preserves s (takeCompletion p s).2 := by
  unfold Machine.takeCompletion
  dsimp only
  split
  · exact refl s
  · rename_i r rest hr
    refine channel (ChannelStep.setPort id) ⟨fun h => ?_, fun h => h.apart (fun _ => rfl) fun _ => rfl⟩
    refine (ordersCounted_iff _).2 ⟨h.1, fun q => ?_⟩
    have before := ((ordersCounted_iff s).1 h).2 q
    by_cases hq : q = p
    · subst hq
      rw [hr, List.length_cons] at before
      simp only [State.setPort_port, if_true]
      exact ⟨before.1, by omega⟩
    · rwa [State.setPort_port, if_neg hq]

theorem raisingCommand (value : Word → Word) (carry : Word → Bool) (k : CellNo) (s : State) :
    Preserves s (raisingCommand value carry k s).2 := channel (.writeAndGate ..) (.writeAndGate ..)

/-- A cell command that gives 0 for 0 opens no gate (R145 to R147, R149). -/
theorem plainCommand {value : Word → Word} (carry : Word → Bool) (k : CellNo) (s : State)
    (h : value 0#16 = 0#16) : Preserves s (plainCommand value carry k s).2 :=
  channel (.lowerCell fun zero => by rw [zero, h]) (.writeCell ..)

theorem onCell (p : Port) {act : CellNo → State → Reply × State} {s : State}
    (h : ∀ k, Preserves s (act k s).2) : Preserves s (onCell p act s).2 := by
  unfold Machine.onCell
  split
  · exact h _
  · exact refl s

theorem onCellBit (p : Port) {act : CellNo → Nat → State → Reply × State} {s : State}
    (h : ∀ k b, Preserves s (act k b s).2) : Preserves s (onCellBit p act s).2 := by
  refine onCell p fun k => ?_
  split
  · exact h ..
  · exact refl s

theorem cellWatch (p : Port) (s : State) : Preserves s (cellWatch p s).2 := setPort id ⟨rfl, rfl⟩ rfl rfl

theorem cellsChanged (p : Port) (s : State) : Preserves s (cellsChanged p s).2 :=
  setPort id ⟨rfl, rfl⟩ rfl rfl

/-! ## The settings and PORT RESET -/

theorem clearReports (s : State) : Preserves s (clearReports s) :=
  ⟨.clearReports s, .apart rfl rfl rfl, (SameLink.service ..).follows⟩

theorem answerIfWilling (s : State) : Preserves s (answerIfWilling s) :=
  ⟨.answerIfWilling s, .answerIfWilling s, fun h => h.answerIfWilling⟩

theorem replaceSettings (x : Settings) (s : State) : Preserves s (replaceSettings x s) := by
  have replaced : Preserves s { s with settings := x } :=
    ⟨Keeps.trunk rfl rfl rfl rfl rfl rfl id id id id, .apart rfl rfl rfl, (SameLink.ofEq rfl rfl).follows⟩
  unfold Machine.replaceSettings
  dsimp only
  split_ifs
  · exact (answerIfWilling _).after ((clearReports _).after replaced)
  · exact (answerIfWilling _).after replaced
  · exact (clearReports _).after replaced
  · exact replaced

theorem settingsRead (p : Port) (s : State) : Preserves s (settingsRead p s).2 := by
  unfold Machine.settingsRead
  split <;> exact refl s

theorem settingsWrite (p : Port) (s : State) : Preserves s (settingsWrite p s).2 := by
  unfold Machine.settingsWrite
  split_ifs
  · exact refl s
  · exact refl s
  · split
    · exact refl s
    · exact replaceSettings ..

theorem foldl {α : Type} {f : State → α → State} (h : ∀ s x, Preserves s (f s x)) (l : List α) :
    ∀ s, Preserves s (l.foldl f s) := by
  induction l with
  | nil => exact refl
  | cons x l ih => exact fun s => (h s x).trans (ih _)

theorem closeOwned (p : Port) (s : State) : Preserves s (closeOwned p s) :=
  foldl (fun t c => ite (fun _ => ⟨.discardChannel t c, .discardChannel t c,
    (SameLink.discardChannel t c).follows⟩) fun _ => refl t) _ s

theorem dropHeld (p : Port) (s : State) : Preserves s (dropHeld p s) :=
  foldl (fun t n => ite (fun _ => setArea (n := n) (x := Area.undefined) fun _ => ⟨rfl, rfl, rfl⟩)
    fun _ => refl t) _ s

end Preserves

@[simp] theorem clearReports_channel (s : State) (c : ChannelNo) :
    (clearReports s).channel c = s.channel c := rfl

theorem foldl_dropHeld_channels (p : Port) (l : List AreaNo) :
    ∀ s : State, (l.foldl (fun s n => if (s.area n).holder = some p then s.setArea n Area.undefined else s)
      s).channels = s.channels := by
  induction l with
  | nil => exact fun _ => rfl
  | cons n l ih =>
    intro s
    rw [List.foldl_cons, ih]
    split <;> rfl

@[simp] theorem dropHeld_channel (p : Port) (s : State) (c : ChannelNo) :
    (dropHeld p s).channel c = s.channel c := by
  rw [State.channel, dropHeld, foldl_dropHeld_channels, State.channel]

theorem reviewClaims_channels (s : State) : (reviewClaims s).channels = s.channels := by
  unfold reviewClaims answerIfWilling tryIfReady leaveIfUnwanted
  split
  · split_ifs <;> rfl
  · split <;> rfl
  · split <;> rfl
  · rfl

@[simp] theorem removeClaim_channel (p : Port) (s : State) (c : ChannelNo) :
    (removeClaim p s).channel c = s.channel c := by
  rw [State.channel, removeClaim, reviewClaims_channels, State.channel]

/-- PORT RESET leaves no channel to the port (R121): one that is CLOSED has no owner. -/
theorem OrdersCounted.closeOwned_owner {s : State} (h : OrdersCounted s) (p : Port) (c : ChannelNo) :
    ((closeOwned p s).channel c).owner ≠ some p := by
  rw [closeOwned_channel]
  split
  · simp [Channel.closed]
  · rename_i kept
    intro owned
    have shut : (s.channel c).state = .closed := by simpa [owned, Channel.isOpen] using kept
    rw [h.1 c shut] at owned
    simp [Channel.closed] at owned

theorem Preserves.resetPort (p : Port) (s : State) : Preserves s (resetPort p s) := by
  have released := ((Preserves.closeOwned p s).trans (.dropHeld p _)).trans (.removeClaim p _)
  have emptied {t : State} (h : Preserves s t)
      (free : OrdersCounted s → ∀ c, (t.channel c).owner ≠ some p) :
      Preserves s (t.setPort p (t.port p).cleared) := by
    have cleared : ChannelStep t (t.setPort p (t.port p).cleared) :=
      .setPort (hp := ⟨rfl, rfl⟩) fun _ => ⟨BitVec.zero_and, BitVec.zero_and⟩
    refine ⟨h.keeps.trans cleared.keeps, ⟨fun k => ?_, fun k => ?_⟩, fun k => ?_⟩
    · exact (h.orders.counted k).clearPort ⟨rfl, rfl⟩ (free k)
    · exact (h.orders.waiters k).apart (fun _ => rfl) fun _ => rfl
    · exact cleared.sameLink.follows (h.follows k)
  have free (h : OrdersCounted s) (c : ChannelNo) :
      ((Machine.removeClaim p (Machine.dropHeld p (Machine.closeOwned p s))).channel c).owner ≠ some p := by
    rw [removeClaim_channel, dropHeld_channel]
    exact h.closeOwned_owner p c
  unfold Machine.resetPort
  dsimp only
  split
  · refine emptied (released.trans (.clearReports _)) fun h c => ?_
    rw [clearReports_channel]
    exact free h c
  · exact emptied released free

end Sys2Proof.Machine
end

section
/-! SUPPORT. What a step of the table keeps of the invariants, row by row, and that it always answers a next
state. -/

namespace Sys2Proof.Machine

open Sys2Proof

/-! ## The relation -/

/-- What every step keeps of the invariants, the agreement of SDOn and the select line aside; the queue is
left as it is. -/
structure Sound (s t : State) : Prop where
  pool : PoolCanonical s → PoolCanonical t
  events : EventsInRange s → EventsInRange t
  gates : GatesShut s → GatesShut t
  rings : RingsInRange s → RingsInRange t
  counts : CountsInRange s → CountsInRange t
  orders : KeepsOrders s t
  follows : FramerFollowsLink s → FramerFollowsLink t
  pending : t.pending = s.pending

/-- What every step keeps of the invariants. -/
structure StepKeeps (s t : State) : Prop where
  sound : Sound s t
  sdo : SdoFollowsSelect s → SdoFollowsSelect t

theorem Preserves.sound {s t : State} (h : Preserves s t) : Sound s t :=
  ⟨h.keeps.pool, h.keeps.events, h.keeps.gates, h.keeps.rings, h.keeps.counts, h.orders, h.follows,
    h.keeps.pending⟩

theorem Preserves.step {s t : State} (h : Preserves s t) : StepKeeps s t :=
  ⟨h.sound, h.keeps.pins.sdoFollows⟩

theorem Sound.trans {s t u : State} (h : Sound s t) (k : Sound t u) : Sound s u :=
  ⟨k.pool ∘ h.pool, k.events ∘ h.events, k.gates ∘ h.gates, k.rings ∘ h.rings, k.counts ∘ h.counts,
    h.orders.trans k.orders, k.follows ∘ h.follows, k.pending.trans h.pending⟩

theorem Sound.refl (s : State) : Sound s s := (Preserves.refl s).sound

/-- A row whose act answers a next state. -/
theorem Preserves.next {s t u : State} (h : Preserves s u)
    (e : (.next u : Host.Outcome State Fault Refusal) = .next t) : StepKeeps s t := by
  cases e
  exact h.step

/-- A command row, taken or not. -/
theorem StepKeeps.command {b : Bool} {p : Port} {act : State → Reply × State} {s t : State}
    (e : Machine.takeCommand b p act s = .next t) (h : ∀ u, Preserves u (act u).2) : StepKeeps s t :=
  (Preserves.takeCommand h e).step

/-! ## Transactions -/

/-- A port's own fields may change but for its order count and its records. -/
theorem Sound.setPort {s : State} {p : Port} {q : PortState}
    (events : (s.port p).eventsInRange → q.eventsInRange) (count : q.orderCount = (s.port p).orderCount)
    (records : q.completions = (s.port p).completions) : Sound s (s.setPort p q) :=
  ⟨id, fun h => h.setPort (events (h p)), id, id, id, .setPort count records,
    (SameLink.ofEq rfl rfl).follows, rfl⟩

theorem Sound.beginAccess (s : State) (p : Port) (header : Byte) : Sound s (s.beginAccess p header) :=
  .setPort id rfl rfl

theorem Sound.endAccess (s : State) (p : Port) : Sound s (s.endAccess p) := .setPort id rfl rfl

theorem Sound.clearSent (s : State) (p : Port) : Sound s (s.clearSent p) := .setPort id rfl rfl

theorem Sound.sendByte (s : State) (p : Port) (b : Byte) : Sound s (s.sendByte p b) := .setPort id rfl rfl

theorem Sound.transact {act : State → State} (h : ∀ u, Preserves u (act u)) (p : Port) (header : Byte)
    (s : State) : Sound s (transact p header act s) :=
  ((Sound.beginAccess s p header).trans (h _).sound).trans (.endAccess ..)

/-- A whole transaction keeps what its act keeps. -/
theorem StepKeeps.transact {act : State → State} {p : Port} {header : Byte} {s t : State}
    (e : (.next (transact p header act s) : Host.Outcome State Fault Refusal) = .next t)
    (h : ∀ u, Preserves u (act u)) : StepKeeps s t := by
  cases e
  exact ⟨.transact h p header s, fun k => k.transact p header fun u hu => (h u).keeps.pins.sdoFollows hu⟩

/-- One byte of a transaction keeps what its act keeps in a port that takes the transaction. -/
theorem StepKeeps.transactByte {act : State → State} {p : Port} {header : Byte} {begins ends : Bool}
    {s t : State}
    (e : (.next (transactByte p header begins ends act s) : Host.Outcome State Fault Refusal) = .next t)
    (h : ∀ u, Sound u (act u))
    (k : ∀ u, (u.port p).transaction = .taken header → SdoFollowsSelect u → SdoFollowsSelect (act u)) :
    StepKeeps s t := by
  cases e
  refine ⟨?_, fun hs => hs.transactByte p header begins ends k⟩
  have begun : Sound s (if begins then (s.beginAccess p header).clearSent p else s) := by
    split
    · exact (Sound.beginAccess s p header).trans (.clearSent ..)
    · exact .refl s
  unfold Machine.transactByte
  dsimp only
  generalize (if begins then (s.beginAccess p header).clearSent p else s) = u at begun ⊢
  have acted : Sound s (if (u.port p).transaction = .taken header then act u else u) := by
    split
    · exact begun.trans (h u)
    · exact begun
  generalize (if (u.port p).transaction = .taken header then act u else u) = v at acted ⊢
  split
  · exact acted.trans (.endAccess ..)
  · exact acted

theorem Preserves.ringAppend {s : State} {n : AreaNo} (b : Byte) (h : 0 < (s.area n).free) :
    Preserves s (ringAppend s n b) :=
  ⟨(TransferStep.ringAppend b h).keeps, .apart rfl rfl rfl, (TransferStep.ringAppend b h).sameLink.follows⟩

theorem Preserves.ringRemove {s : State} {n : AreaNo} (h : 0 < (s.area n).fill) :
    Preserves s (ringRemove s n) :=
  ⟨(TransferStep.ringRemove h).keeps, .apart rfl rfl rfl, (TransferStep.ringRemove h).sameLink.follows⟩

theorem Preserves.windowWrite (p : Port) (c : ChannelNo) (b : Byte) (s : State) :
    Preserves s (windowWrite p c b s) := by
  unfold Machine.windowWrite
  split
  · exact .raise ..
  · exact .ite (fun room => .ringAppend b room) fun _ => .raise ..

/-- A read byte is sent, and then taken from the ring, or an event is raised (R110, R111). -/
theorem windowRead_after_sendByte (p : Port) (c : ChannelNo) (s : State) :
    Preserves (s.sendByte p (dataWindowByte s p c)) (windowRead p c s) := by
  unfold windowRead
  dsimp only
  split
  · exact .raise ..
  · exact .ite (fun filled => .ringRemove filled) fun _ => .raise ..

theorem Sound.shiftUnstated (s : State) (p : Port) : Sound s (shiftUnstated s p) :=
  Sound.trans (t := { s with freeNext := s.freeNext + 1 })
    ⟨id, id, id, id, id, .apart rfl rfl rfl, (SameLink.ofEq rfl rfl).follows, rfl⟩ (.setPort id rfl rfl)

theorem PortState.eventsInRange_writeCode {q : PortState} (code : Byte) (h : q.eventsInRange) :
    (q.writeCode code).eventsInRange := by
  unfold PortState.writeCode
  split_ifs
  · exact h
  · exact PortState.eventsInRange_raise _ h
  · exact h

theorem Preserves.writeCode (s : State) (p : Port) (code : Byte) :
    Preserves s (s.setPort p ((s.port p).writeCode code)) := by
  refine .setPort (PortState.eventsInRange_writeCode code) ?_ ?_ ?_ <;> unfold PortState.writeCode
  · split_ifs <;> exact ⟨rfl, rfl⟩
  · split_ifs <;> rfl
  · split_ifs <;> rfl

theorem Preserves.writeParameters (s : State) (p : Port) (offset : Byte) (data : List Byte) :
    Preserves s (s.setPort p ((s.port p).writeParameters offset data)) := by
  refine .setPort (fun h => ?_) ?_ ?_ ?_ <;> unfold PortState.writeParameters
  · split_ifs
    · exact h
    · exact PortState.eventsInRange_raise _ h
    · exact h
  · split_ifs <;> exact ⟨rfl, rfl⟩
  · split_ifs <;> rfl
  · split_ifs <;> rfl

/-! ## Tones and timers -/

/-- A flag of the link controller may change while its state and its counts stay. -/
theorem Preserves.linkFlag {s : State} {x : Link} (state : x.state = s.link.state)
    (counts : s.link.inRange → x.inRange) : Preserves s { s with link := x } :=
  ⟨.link counts, .apart rfl rfl rfl, LinkMoves.follows (.same state rfl rfl rfl rfl rfl)⟩

theorem Preserves.tryIfReady (s : State) : Preserves s (tryIfReady s) :=
  ⟨.tryIfReady s, .tryIfReady s, fun h => h.tryIfReady⟩

theorem Preserves.enterAnswering {s : State} (rest : s.link.state.resting = true) :
    Preserves s (enterAnswering s) :=
  ⟨.enterAnswering s, .enterAnswering s, fun h => h.enterAnswering rest⟩

theorem Preserves.enterAligning {s : State} (rest : s.link.state.resting = true) :
    Preserves s (enterAligning s) :=
  ⟨.enterAligning s, .apart rfl rfl rfl, fun h => h.enterAligning rest⟩

theorem Preserves.failTry (order : ChannelOrder) (r : Option FailureReason) (s : State) :
    Preserves s (failTry order r s) :=
  ⟨.failTry order r s, .failTry order r s, fun _ => (FramerCleared.failTry order r s).follows⟩

theorem Preserves.heard {s : State} (b : Bool) :
    Preserves s { s with link := { s.link with wakeHeard := b } } := .linkFlag rfl id

theorem exec_wakeHeard_keeps {s t : State} (e : exec .wakeHeard s = .next t) : StepKeeps s t := by
  refine Preserves.next ?_ e
  split
  · rename_i down
    unfold wakeHeardInDown
    refine .ite (fun _ => .refl s) fun _ => .after (.ite (fun _ => ?_) fun _ => .raiseAll ..) (.heard true)
    exact .enterAnswering (by simp [down, LinkState.resting])
  · rename_i waking
    exact (Preserves.enterAnswering (by simp [waking, LinkState.resting])).after (.heard true)
  · exact .heard true
  · exact .refl s

theorem exec_resyncLimit_keeps {order : ChannelOrder} {s t : State}
    (e : exec (.resyncLimit order) s = .next t) : StepKeeps s t := by
  refine Preserves.next ?_ e
  split
  · refine .ite (fun _ => ?_) fun _ => .refl s
    exact ⟨.resyncLost order s, .resyncLost order s, fun _ => (FramerCleared.resyncLost order s).follows⟩
  · exact .refl s

/-! ## Frames -/

theorem exec_outboundFrameStart_keeps {order : ChannelOrder} {s t : State}
    (e : exec (.outboundFrameStart order) s = .next t) : StepKeeps s t := by
  refine Preserves.next (.ite (fun _ => ?_) fun _ => .refl s) e
  exact ⟨.startFrame order s, .startFrame order s, fun h => h.startFrame order⟩

theorem exec_receivedFrame_keeps {marker : Byte} {payload : Payload} {service : Byte} {order : ChannelOrder}
    {s t : State} (e : exec (.receivedFrame marker payload service order) s = .next t) : StepKeeps s t := by
  have caught : Preserves s (catchUp order s) :=
    ⟨.catchUp order s, .catchUp order s, fun h => h.catchUp order⟩
  refine Preserves.next (.ite (fun _ => ?_) fun _ => .refl s) e
  refine .ite (fun framed => .after ?_ caught) fun _ => caught
  exact ⟨.receivePlace .., .receivePlace .., fun h => h.receivePlace framed order marker payload service⟩

theorem exec_huntMarker_keeps {bits : List Bool} {s t : State} (e : exec (.huntMarker bits) s = .next t) :
    StepKeeps s t := by
  refine Preserves.next (.ite (fun hunts => ?_) fun _ => .refl s) e
  have aligning : s.link.state = .aligning := by
    simp only [Bool.and_eq_true, beq_iff_eq] at hunts
    exact hunts.1
  have stepped (found : Option Byte) : Preserves s (huntStep found s) :=
    ⟨.huntStep found s, .huntStep found s, fun h => h.huntStep aligning found⟩
  split
  · refine .ite (fun _ => ?_) fun _ => .refl s
    exact ⟨.frameFromMarker s, .apart rfl rfl rfl, fun h => h.frameFromMarker aligning⟩
  · unfold huntLine
    refine .ite (fun _ => ?_) fun _ => .ite (fun _ => .refl s) fun _ => stepped _
    split
    · exact stepped _
    · exact .refl s

theorem Preserves.cycleStep {due : State → Bool} {act : State → State} (k : ∀ u, Keeps u (act u))
    (o : ∀ u, KeepsOrders u (act u)) (f : ∀ u, FramerFollowsLink u → FramerFollowsLink (act u)) (s : State) :
    Preserves s (cycleStep due act s) := ⟨.cycleStep k s, .cycleStep o s, fun h => h.cycleStep f⟩

/-! ## Power-on reset -/

/-- The part after power-on reset with any pins, and any queue kept (R22, R170). -/
def resetWith (pins : ResetPins) (s : State) : State :=
  { State.afterReset (roleOfPin pins.roleHigh) with
    ports := releasedPorts pins.selected (State.afterReset (roleOfPin pins.roleHigh)).ports
    pending := s.pending, freeNext := s.freeNext }

theorem exec_powerOnReset (pins : ResetPins) (s : State) :
    exec (.powerOnReset pins) s = .next (resetWith pins s) := rfl

theorem resetWith_port (pins : ResetPins) (s : State) (p : Port) :
    (resetWith pins s).port p = PortState.afterReset.released (pins.selected.contains p) := by
  cases p <;> rfl

@[simp] theorem resetWith_channel (pins : ResetPins) (s : State) (c : ChannelNo) :
    (resetWith pins s).channel c = Channel.closed := by
  simp [resetWith, State.channel, State.afterReset]

@[simp] theorem resetWith_cell (pins : ResetPins) (s : State) (k : CellNo) :
    (resetWith pins s).cell k = ⟨0#16, []⟩ := by
  simp [resetWith, State.cell, State.afterReset]

@[simp] theorem resetWith_area (pins : ResetPins) (s : State) (n : AreaNo) :
    (resetWith pins s).area n = Area.undefined := by
  simp [resetWith, State.area, State.afterReset]

/-- A disregarded transaction changes nothing but the transaction (R170). -/
theorem PortState.released_eq (b : Bool) (q : PortState) :
    q.released b = { q with transaction := if b then .disregarded else q.transaction } := by
  cases b <;> rfl

theorem resetWith_pool (pins : ResetPins) (s : State) : PoolCanonical (resetWith pins s) :=
  ⟨List.Pairwise.nil, by simp [resetWith, State.afterReset]⟩

theorem resetWith_events (pins : ResetPins) (s : State) : EventsInRange (resetWith pins s) := by
  intro p
  rw [resetWith_port, PortState.released_eq]
  exact ⟨BitVec.zero_and, BitVec.zero_and⟩

theorem resetWith_gates (pins : ResetPins) (s : State) : GatesShut (resetWith pins s) := by
  intro k
  simp

theorem resetWith_rings (pins : ResetPins) (s : State) : RingsInRange (resetWith pins s) := by
  intro n
  rw [resetWith_area]
  exact ⟨rfl, rfl, rfl⟩

theorem resetWith_counts (pins : ResetPins) (s : State) : CountsInRange (resetWith pins s) := by
  have absent (n : Nat) : atMost n none := atMost_none n
  refine ⟨⟨Nat.zero_le _, absent _, absent _, absent _⟩, ⟨?_, ?_, ?_, ?_⟩,
    ⟨?_, ?_, ?_, absent _, fun r hr => nomatch hr⟩, ⟨?_, ?_⟩, fun c => ?_⟩
  case refine_10 => simp [Channel.closed]
  all_goals exact Nat.zero_le _

theorem resetWith_ordersCounted (pins : ResetPins) (s : State) : OrdersCounted (resetWith pins s) := by
  refine (ordersCounted_iff _).2 ⟨fun c _ => resetWith_channel pins s c, fun p => ?_⟩
  have noOrders : ordersOf (resetWith pins s) p = 0 := by simp [ordersOf, share, Channel.closed]
  rw [noOrders, resetWith_port, PortState.released_eq]
  exact ⟨rfl, Nat.zero_le _⟩

theorem resetWith_waiters (pins : ResetPins) (s : State) : WaitersMatch (resetWith pins s) := by
  refine ⟨fun k => ?_, fun k c => ?_, fun c => ?_⟩
  · simp
  · simp [Channel.closed]
  · simp [Channel.closed]

theorem resetWith_follows (pins : ResetPins) (s : State) : FramerFollowsLink (resetWith pins s) :=
  FramerCleared.follows ⟨rfl, rfl, rfl, rfl, rfl⟩

theorem resetWith_sdo (pins : ResetPins) (s : State) : SdoFollowsSelect (resetWith pins s) := by
  intro p
  rw [resetWith_port, PortState.released_eq]
  cases pins.selected.contains p <;> simp [PortState.afterReset]

theorem resetWith_keeps (pins : ResetPins) (s : State) : StepKeeps s (resetWith pins s) where
  sound :=
    { pool := fun _ => resetWith_pool pins s
      events := fun _ => resetWith_events pins s
      gates := fun _ => resetWith_gates pins s
      rings := fun _ => resetWith_rings pins s
      counts := fun _ => resetWith_counts pins s
      orders := ⟨fun _ => resetWith_ordersCounted pins s, fun _ => resetWith_waiters pins s⟩
      follows := fun _ => resetWith_follows pins s
      pending := rfl }
  sdo := fun _ => resetWith_sdo pins s

/-! ## Every row -/

/-- Every row of the table keeps every invariant. -/
theorem exec_keeps {i : Instr} {s t : State} (e : exec i s = .next t) : StepKeeps s t := by
  cases i with
  | linkUp p => exact .command e (.linkUp p)
  | linkDown p =>
    change execLinkDown p s = .next t at e
    exact .command e fun u => .removeClaim p u
  | linkStatus p => exact .command e .refl
  | counters p => exact .command e (.counters p)
  | sendService p => exact .command e (.sendService p)
  | sendServiceAnswer p => exact .command e (.sendServiceAnswer p)
  | takeReport p => exact .command e (.takeReport p)
  | maintLoopAll p => exact .command e (.maint p _ fun u _ h => Option.some.inj h ▸ .setLoops u _)
  | maintLoopSlot p =>
    refine .command e (.maint p _ fun u v h => ?_)
    obtain ⟨i, -, rfl⟩ := Option.map_eq_some_iff.1 h
    exact .setLoops u _
  | maintLoopClear p => exact .command e (.maint p _ fun u _ h => Option.some.inj h ▸ .setLoops u _)
  | maintBadChecksOn p =>
    exact .command e (.maint p _ fun u _ h => Option.some.inj h ▸ (Preserves.stopBadStart u).trans (.setBadChecks _ _))
  | maintBadChecksOff p =>
    exact .command e (.maint p _ fun u _ h => Option.some.inj h ▸ (Preserves.stopBadStart u).trans (.setBadChecks _ _))
  | maintBlindOn p => exact .command e (.maint p _ fun u _ h => Option.some.inj h ▸ .setBlind u _)
  | maintBlindOff p => exact .command e (.maint p _ fun u _ h => Option.some.inj h ▸ .setBlind u _)
  | maintClearAll p => exact .command e (.maint p _ fun u _ h => Option.some.inj h ▸ .clearTests u)
  | slotAssign p => exact .command e (.slotAssign p)
  | slotFree p => exact .command e (.slotFree p)
  | planRead p => exact .command e fun u => by unfold planRead; split <;> exact .refl u
  | planSwitch p => exact .command e (.planSwitch p)
  | planWithdraw p => exact .command e .planWithdraw
  | planStatus p => exact .command e .refl
  | shapeArea p => exact .command e (.shapeArea p)
  | dropArea p => exact .command e (.dropArea p)
  | clearArea p => exact .command e (.clearArea p)
  | areaStatus p => exact .command e fun u => by unfold areaStatus; split <;> exact .refl u
  | openChannel p => exact .command e (.openChannel p)
  | closeChannel p => exact .command e fun u => .onOwnChannel p _ fun c _ _ => .closeOwn c u
  | postOrder p => exact .command e (.postOrder p)
  | abortCurrent p => exact .command e fun u => .onOwnChannel p _ fun c _ _ => .abortCurrentOwn c u
  | abortAll p => exact .command e fun u => .onOwnChannel p _ fun c _ _ => .abortAllOwn c u
  | resume p => exact .command e fun u => .onOwnChannel p _ fun c _ _ => .resumeOwn c u
  | channelStatus p => exact .command e (.channelStatus p)
  | takeCompletion p => exact .command e (.takeCompletion p)
  | cellRead p => exact .command e fun u => .onCell p fun k => .plainCommand _ k u rfl
  | cellSet p => exact .command e fun u => .onCell p fun k => .raisingCommand _ _ k u
  | cellExchange p => exact .command e fun u => .onCell p fun k => .raisingCommand _ _ k u
  | cellAdd p => exact .command e fun u => .onCell p fun k => .raisingCommand _ _ k u
  | cellTake p => exact .command e fun u => .onCell p fun k => .plainCommand _ k u rfl
  | cellTestClear p =>
    exact .command e fun u => .onCellBit p fun k b => .plainCommand _ k u (BitVec.zero_and (x := ~~~oneBit b))
  | cellSetBit p => exact .command e fun u => .onCellBit p fun k _ => .raisingCommand _ _ k u
  | cellWatch p => exact .command e (.cellWatch p)
  | cellsChanged p => exact .command e (.cellsChanged p)
  | settingsRead p => exact .command e (.settingsRead p)
  | settingsWrite p => exact .command e (.settingsWrite p)
  | portReset p =>
    change execPortReset p s = .next t at e
    exact .command e fun u => .resetPort p u
  | unknownCommand p => exact .command e .refl
  | commandWrite p data =>
    refine .transact e fun u => ?_
    split
    · exact .refl u
    · exact .writeCode ..
  | parameterWrite p offset data => exact .transact e fun u => .writeParameters u p offset data
  | eventsWrite p data =>
    refine .transact e fun u => ?_
    split
    · exact .setPort (fun h => ⟨eventBits_and_of_and _ h.1, h.2⟩) ⟨rfl, rfl⟩ rfl rfl
    · exact .refl u
  | maskWrite p data =>
    refine .transact e fun u => ?_
    split
    · refine .setPort (fun h => ⟨h.1, ?_⟩) ⟨rfl, rfl⟩ rfl rfl
      rw [BitVec.and_assoc, BitVec.and_self]
    · exact .refl u
  | noTargetAccess p header data =>
    by_cases target : meetsNoTarget header
    · refine .transact (p := p) (header := header) (act := fun s =>
        if writesResult header && data.isEmpty then s else s.raise p .access) ?_ fun u =>
          .ite (fun _ => .refl u) fun _ => .raise ..
      rw [← e]
      exact congrArg _ (if_pos target).symm
    · exact (Preserves.refl s).next (by rw [← e]; exact congrArg _ (if_neg target).symm)
  | dataWindowWrite p c b =>
    refine .transactByte e (fun u => (Sound.shiftUnstated u p).trans (Preserves.windowWrite ..).sound)
      fun u ht hu => ?_
    exact (Preserves.windowWrite ..).keeps.pins.sdoFollows
      (SdoFollowsSelect.shiftOut (s := { u with freeNext := u.freeNext + 1 }) hu ht _)
  | dataWindowRead p c =>
    refine .transactByte e (fun u => (Sound.sendByte u p _).trans
      (windowRead_after_sendByte p c.channel u).sound) fun u ht hu => ?_
    exact (windowRead_after_sendByte p c.channel u).keeps.pins.sdoFollows (hu.sendByte ht _)
  | powerOnReset pins =>
    cases e
    exact resetWith_keeps pins s
  | outboundFrameStart order => exact exec_outboundFrameStart_keeps e
  | receivedFrame marker payload service order => exact exec_receivedFrame_keeps e
  | huntMarker bits => exact exec_huntMarker_keeps e
  | wakeHeard => exact exec_wakeHeard_keeps e
  | wakeGone =>
    exact Preserves.next (.ite (fun _ => (Preserves.tryIfReady _).after (.heard false)) fun _ => .refl s) e
  | answerHeard =>
    refine Preserves.next (.ite (fun waking => .enterAligning ?_) fun _ => .refl s) e
    simp [waking, LinkState.resting]
  | answerGone => exact (Preserves.refl s).next e
  | quietGuardExpiry =>
    refine Preserves.next ?_ e
    exact .ite (fun _ => (Preserves.tryIfReady _).after (.linkFlag rfl id)) fun _ => .refl s
  | tryTimerExpiry =>
    refine Preserves.next ?_ e
    exact .ite (fun _ => (Preserves.tryIfReady _).after (.linkFlag rfl id)) fun _ => .refl s
  | wakeToneTimerExpiry order => exact Preserves.next (.ite (fun _ => .failTry ..) fun _ => .refl s) e
  | answerToneTimerExpiry =>
    refine Preserves.next (.ite (fun answers => .enterAligning ?_) fun _ => .refl s) e
    simp only [Bool.and_eq_true, beq_iff_eq] at answers
    simp [answers.1, LinkState.resting]
  | alignTimerExpiry order => exact Preserves.next (.ite (fun _ => .failTry ..) fun _ => .refl s) e
  | readyWaitExpiry order =>
    exact Preserves.next (.cycleStep (.failTry order _) (.failTry order _)
      (fun u _ => (FramerCleared.failTry order _ u).follows) s) e
  | resyncLimit order => exact exec_resyncLimit_keeps e
  | leavingComplete order =>
    exact Preserves.next (.cycleStep (.leavingDone order) (.leavingDone order)
      (fun u _ => (FramerCleared.leavingDone order u).follows) s) e
  | planTimeout =>
    exact Preserves.next (.cycleStep .planTimeoutOp .planTimeoutOp
      (fun u => (SameLink.planTimeoutOp u).follows) s) e
  | badChecksStartExpiry =>
    exact Preserves.next (.cycleStep .badStartExpires .badStartExpires (fun _ h => h.badStartExpires) s) e
  | planSwap order =>
    exact Preserves.next (.cycleStep (.planSwapOp order) (.planSwapOp order)
      (fun u => (SameLink.planSwapOp order u).follows) s) e
  | bankAdoption order =>
    exact Preserves.next (.cycleStep (.bankAdoptionOp order) (.bankAdoptionOp order)
      (fun u => (SameLink.bankAdoptionOp order u).follows) s) e

theorem takeCommand_next (b : Bool) (p : Port) (act : State → Reply × State) (s : State) :
    ∃ t, takeCommand b p act s = .next t := by
  cases b
  · exact ⟨_, takeCommand_notTaken ..⟩
  · exact ⟨_, takeCommand_taken ..⟩

/-- No row faults or refuses: a command row completes or changes nothing, and every other row is written as
a next state. -/
theorem exec_next (i : Instr) (s : State) : ∃ t, exec i s = .next t := by
  cases i
  case commandWrite | parameterWrite | eventsWrite | maskWrite | noTargetAccess | dataWindowWrite
    | dataWindowRead | powerOnReset | outboundFrameStart | receivedFrame | huntMarker | wakeHeard | wakeGone
    | answerHeard | answerGone | quietGuardExpiry | tryTimerExpiry | wakeToneTimerExpiry
    | answerToneTimerExpiry | alignTimerExpiry | readyWaitExpiry | resyncLimit | leavingComplete | planTimeout
    | badChecksStartExpiry | planSwap | bankAdoption => exact ⟨_, rfl⟩
  case linkDown p => exact takeCommand_next (engineTakes s p 0x02#8) p (fun s => (.done [], removeClaim p s)) s
  case portReset p => exact takeCommand_next (engineTakes s p portResetCode) p (fun s => (.done [], resetPort p s)) s
  all_goals exact takeCommand_next ..

/-- A step keeps what its row keeps; the queue is no part of any invariant. -/
theorem step_keeps {s t : State} (e : step s = .next t) :
    ∃ rest, StepKeeps { s with pending := rest } t := by
  unfold step at e
  split at e
  · cases e
    exact ⟨s.pending, (Preserves.refl s).step⟩
  · exact ⟨_, exec_keeps e⟩

/-- Settles O4: every row keeps the pool's form (`exec_keeps`), and so does a step. -/
theorem poolStaysCanonical : Obligations.PoolStaysCanonical := by
  intro s t h e
  obtain ⟨_, keeps⟩ := step_keeps e
  exact keeps.sound.pool h

/-- Settles O5, by `exec_keeps`. -/
theorem eventsStayInRange : Obligations.EventsStayInRange := by
  intro s t h e
  obtain ⟨_, keeps⟩ := step_keeps e
  exact keeps.sound.events h

/-- Settles O6, by `exec_keeps`. -/
theorem gatesStayShut : Obligations.GatesStayShut := by
  intro s t h e
  obtain ⟨_, keeps⟩ := step_keeps e
  exact keeps.sound.gates h

/-- Settles O7, by `exec_keeps`. -/
theorem ringsStayInRange : Obligations.RingsStayInRange := by
  intro s t h e
  obtain ⟨_, keeps⟩ := step_keeps e
  exact keeps.sound.rings h

/-- Settles O8: the counts, the order counts and the waiter lists, by `exec_keeps`. -/
theorem countsStayInRange : Obligations.CountsStayInRange := by
  refine ⟨fun s t h e => ?_, fun s t h e => ?_, fun s t h e => ?_⟩ <;> obtain ⟨_, keeps⟩ := step_keeps e
  · exact keeps.sound.counts h
  · exact keeps.sound.orders.counted h
  · exact keeps.sound.orders.waiters h

/-- Settles O9, by `exec_keeps`. -/
theorem framerKeepsToLink : Obligations.FramerKeepsToLink := by
  intro s t h e
  obtain ⟨_, keeps⟩ := step_keeps e
  exact keeps.sound.follows h

/-- Settles O2: the next state by `exec_next`, the queue by `exec_keeps`. -/
theorem everyStepAnswersNext : Obligations.EveryStepAnswersNext := by
  intro i s
  obtain ⟨t, e⟩ := exec_next i s
  exact ⟨t, e, (exec_keeps e).sound.pending⟩

/-- Settles O1: `step` runs the front of the queue, and idles on an empty one. -/
theorem stepRunsFrontOfQueue : Obligations.StepRunsFrontOfQueue := by
  refine ⟨fun i rest s => rfl, fun s empty => ?_⟩
  unfold step
  rw [empty]

/-- Settles O10: the reset of State.reset itself, which is the state that any reset with ROLE high leaves. -/
theorem invariantsHoldAtReset : Obligations.InvariantsHoldAtReset := by
  have isReset (s : State) (hq : s.pending = []) (hf : s.freeNext = 0) :
      resetWith ⟨true, []⟩ s = State.reset := by
    unfold resetWith
    rw [hq, hf]
    rfl
  refine ⟨fun s hq hf => by rw [exec_powerOnReset, isReset s hq hf], ?_⟩
  rw [← isReset State.reset rfl rfl]
  exact ⟨resetWith_pool _ _, resetWith_events _ _, resetWith_gates _ _, resetWith_rings _ _,
    resetWith_counts _ _, resetWith_follows _ _, resetWith_ordersCounted _ _, resetWith_waiters _ _,
    resetWith_sdo _ _⟩

theorem resetWith_table (pins : ResetPins) (s : State) (b : Bank) (d : Direction) (i : SlotNo) :
    (((resetWith pins s).plan.bank b).table d)[i.val] = none := by
  cases b <;> cases d <;> exact Vector.getElem_replicate ..

/-- What a port holds after power-on reset (R170). -/
theorem resetWith_portValues (pins : ResetPins) (s : State) (p : Port) :
    (resetWith pins s).port p =
      { PortState.afterReset with transaction := if p ∈ pins.selected then .disregarded else .off } := by
  rw [resetWith_port, PortState.released_eq]
  by_cases h : p ∈ pins.selected <;> simp [h, PortState.afterReset]

/-- Settles O3: the state that `exec_powerOnReset` gives, item by item. -/
theorem powerOnResetValues : Obligations.PowerOnResetValues := by
  intro pins s
  refine ⟨resetWith pins s, exec_powerOnReset pins s, rfl, rfl, rfl, rfl, rfl, rfl, rfl, rfl, rfl, rfl, rfl, rfl,
    rfl, rfl, rfl, rfl, rfl, rfl, rfl, rfl, rfl, rfl, rfl, rfl, rfl, rfl, rfl, rfl, rfl, rfl, rfl, rfl, rfl, rfl,
    rfl, rfl, rfl, ?loops, rfl, rfl, resetWith_table pins s, rfl, rfl, rfl, ?pendingClear, rfl,
    resetWith_area pins s, resetWith_channel pins s, resetWith_cell pins s, rfl, ?ports, rfl⟩
  case loops => exact fun i => Vector.getElem_replicate ..
  case pendingClear => exact fun c => Vector.getElem_replicate ..
  case ports =>
    intro p
    rw [resetWith_portValues]
    exact ⟨rfl, rfl, rfl, fun i => ⟨Vector.getElem_replicate .., Vector.getElem_replicate ..⟩, rfl, rfl, rfl,
      rfl, rfl, rfl, by simp [PortState.interruptAsserted, PortState.afterReset], rfl, rfl⟩

end Sys2Proof.Machine
end

section
/-! SUPPORT. The command engine: its rotation, a command's completion, and a row whose command is not the
engine's next take (R159, R160, R173). -/

namespace Sys2Proof.Machine

open Sys2Proof

/-! ## The rotation -/

/-- The first PENDING slot of three ports is the first whose earlier ones are not PENDING (R159). -/
theorem nextTaken_of_rotation {s : State} {first second third : Port}
    (h : portRotation s.lastServed = [first, second, third]) :
    ((s.port first).command = .pending → s.nextTaken = some first) ∧
    ((s.port first).command ≠ .pending → (s.port second).command = .pending →
      s.nextTaken = some second) ∧
    ((s.port first).command ≠ .pending → (s.port second).command ≠ .pending →
      (s.port third).command = .pending → s.nextTaken = some third) := by
  unfold State.nextTaken
  rw [h]
  refine ⟨fun one => ?_, fun one two => ?_, fun one two three => ?_⟩
  · simp [one]
  · simp [one, two]
  · simp [one, two, three]

/-- Settles O11: each last port served gives its rotation, and the take is the first PENDING port there. -/
theorem engineTakesByRotation : Obligations.EngineTakesByRotation := by
  refine ⟨fun s idle => ?_, fun s first second third served => ?_, fun _ => rfl⟩
  · exact List.find?_eq_none.2 fun p _ => by simpa using idle p
  · refine nextTaken_of_rotation ?_
    obtain ⟨h, rfl, rfl, rfl⟩ | ⟨h, rfl, rfl, rfl⟩ | ⟨h, rfl, rfl, rfl⟩ := served <;> rw [h] <;> rfl

/-! ## The completion -/

@[simp] theorem ResultCode.succeeds_iff (r : ResultCode) : r.succeeds = true ↔ r = .done ∨ r = .empty := by
  simp [ResultCode.succeeds]

theorem blockOf_getElem (bytes : List Byte) (i : Fin 24) : (blockOf bytes)[i.val] = bytes.getD i.val 0#8 := by
  simp [blockOf]

/-- A completion raises CMD_DONE and no other event (R160). -/
theorem PortState.finish_holds (q : PortState) (r : Reply) (e : Event) :
    (q.finish r).holds e = (q.holds e || e == .cmdDone) := PortState.raise_holds _ _ e

theorem exec_unknownCommand_taken {p : Port} {s : State} (taken : s.nextTaken = some p)
    (unnamed : (s.port p).code ∉ commandCodes) :
    exec (.unknownCommand p) s = refusedWith p .unknown s := by
  have takes : takesUnknown s p = true := by simp [takesUnknown, taken, unnamed]
  change execUnknownCommand p s = _
  rw [execUnknownCommand, takes, takeCommand_taken, refusedWith]

/-- Settles O12: a completion by the fields of `complete`, the unknown code by its row. -/
theorem completionWritesAnswer : Obligations.CompletionWritesAnswer := by
  refine ⟨fun p r s => ?_, fun p s taken unnamed => exec_unknownCommand_taken taken unnamed⟩
  have port : (complete p r s).port p = (s.port p).finish r := by simp
  dsimp only
  rw [port]
  refine ⟨rfl, blockOf_getElem r.results, ?_, ?_, fun e he => ?_, rfl, rfl, fun other ho => ?_, rfl, fun _ => rfl⟩
  · change (if r.code.succeeds then CommandState.done else .failed) = _
    simp
  · simp [PortState.finish_holds]
  · simp [PortState.finish_holds, he]
  · simp [ho]

/-! ## A row that is not taken -/

/-- The settings of a byte that names one of its choices but another than the row's. -/
theorem choice_other {b own : Byte} {n : Nat} (h : b ≠ own ∧ b.toNat < n) :
    (b == own || decide (n ≤ b.toNat)) = false := by
  obtain ⟨other, named⟩ := h
  simp [other, named]

/-- An action byte from 1 to 8 names an action (R174). -/
theorem maintActions_contains {b : Byte} (h : 1 ≤ b.toNat ∧ b.toNat ≤ 8) : maintActions.contains b = true := by
  have everyAction : ∀ n : Fin 9, 1 ≤ n.val → maintActions.contains (BitVec.ofNat 8 n.val) = true := by decide
  have := everyAction ⟨b.toNat, by omega⟩ h.1
  rwa [BitVec.ofNat_toNat, BitVec.setWidth_eq] at this

theorem takesMaint_other {s : State} {p : Port} {action : Byte}
    (h : engineTakes s p 0x12#8 = false ∨
      (param (s.port p) 0 ≠ action ∧ 1 ≤ (param (s.port p) 0).toNat ∧ (param (s.port p) 0).toNat ≤ 8)) :
    takesMaint s p action = false := by
  obtain untaken | ⟨other, named⟩ := h
  · simp [takesMaint, untaken]
  · have := maintActions_contains named
    simp only [takesMaint, this, Bool.not_true, Bool.or_false, Bool.and_eq_false_iff, beq_eq_false_iff_ne]
    exact .inr other

theorem takesAbort_other {s : State} {p : Port} {scope : Byte}
    (h : engineTakes s p 0x43#8 = false ∨ (param (s.port p) 1 ≠ scope ∧ (param (s.port p) 1).toNat ≤ 1)) :
    takesAbort s p scope = false := by
  obtain untaken | ⟨other, named⟩ := h
  · simp [takesAbort, untaken]
  · rw [takesAbort, choice_other ⟨other, Nat.lt_succ_of_le named⟩, Bool.and_false]

theorem takesSettings_other {s : State} {p : Port} {operation : Byte}
    (h : engineTakes s p 0x60#8 = false ∨
      (param (s.port p) 0 ≠ operation ∧ (param (s.port p) 0).toNat ≤ 1)) :
    takesSettings s p operation = false := by
  obtain untaken | ⟨other, named⟩ := h
  · simp [takesSettings, untaken]
  · rw [takesSettings, choice_other ⟨other, Nat.lt_succ_of_le named⟩, Bool.and_false]

theorem takesUnknown_other {s : State} {p : Port}
    (h : s.nextTaken ≠ some p ∨ (s.port p).code ∈ commandCodes) : takesUnknown s p = false := by
  obtain untaken | named := h
  · simp [takesUnknown, untaken]
  · simp [takesUnknown, named]

/-- A command row that is not taken answers the state unchanged (log entry 4). -/
theorem takeCommand_untaken {b : Bool} (h : b = false) (p : Port) (act : State → Reply × State) (s : State) :
    takeCommand b p act s = .next s := by
  rw [h, takeCommand_notTaken]

theorem exec_linkDown (p : Port) (s : State) : exec (.linkDown p) s =
    takeCommand (engineTakes s p 0x02#8) p (fun s => (.done [], removeClaim p s)) s := rfl

theorem exec_portReset (p : Port) (s : State) : exec (.portReset p) s =
    takeCommand (engineTakes s p 0x7F#8) p (fun s => (.done [], resetPort p s)) s := rfl

/-- Settles O13: each row is `takeCommand` of a condition that is false there. -/
theorem commandNotTakenChangesNothing : Obligations.CommandNotTakenChangesNothing := by
  intro p s
  refine ⟨fun r hr untaken => ?plain, fun h => ?_, fun h => ?_, fun r hr h => ?maint, fun r hr h => ?abort,
    fun r hr h => ?settings, fun h => takeCommand_untaken (takesUnknown_other h) p _ s⟩
  case plain =>
    simp only [List.cons_append, List.nil_append, List.mem_cons, List.not_mem_nil, or_false] at hr
    obtain rfl | hr := hr
    · exact takeCommand_untaken untaken p _ s
    obtain rfl | hr := hr
    · exact exec_linkDown p s ▸ takeCommand_untaken untaken p _ s
    obtain rfl | rfl | rfl | rfl | rfl | rfl | rfl | rfl | rfl | rfl | rfl | rfl | rfl | rfl | rfl | rfl
      | rfl | rfl | rfl | rfl | rfl | rfl | rfl | rfl | rfl | rfl | rfl | rfl | hr := hr
    case inr =>
      obtain rfl := hr
      exact exec_portReset p s ▸ takeCommand_untaken untaken p _ s
    all_goals exact takeCommand_untaken untaken p _ s
  case maint =>
    simp only [List.mem_cons, List.not_mem_nil, or_false] at hr
    obtain rfl | rfl | rfl | rfl | rfl | rfl | rfl | rfl := hr
    all_goals exact takeCommand_untaken (takesMaint_other h) p _ s
  case abort =>
    simp only [List.mem_cons, List.not_mem_nil, or_false] at hr
    obtain rfl | rfl := hr
    all_goals exact takeCommand_untaken (takesAbort_other h) p _ s
  case settings =>
    simp only [List.mem_cons, List.not_mem_nil, or_false] at hr
    obtain rfl | rfl := hr
    all_goals exact takeCommand_untaken (takesSettings_other h) p _ s
  · refine takeCommand_untaken ?_ p _ s
    obtain untaken | flagged := h
    · simp [untaken]
    · simp [(flagParam_eq_true_iff _).2 flagged]
  · refine takeCommand_untaken ?_ p _ s
    obtain untaken | clear := h
    · simp [untaken]
    · simp [clear, flagParam]

end Sys2Proof.Machine
end

section
/-! SUPPORT. LINK UP and LINK DOWN: what a change of the claim set brings about (R24, R26, R28, R36). -/

namespace Sys2Proof.Machine

open Sys2Proof

/-! ## The review of the claims -/

theorem Link.demands_eq_false_iff (l : Link) :
    l.demands = false ↔ l.claims.p1 = false ∧ l.claims.p2 = false ∧ l.claims.p3 = false := by
  simp [Link.demands, and_assoc]

/-- A port's claim is a demand (R24). -/
theorem PerPort.set_true_demands (c : PerPort Bool) (p : Port) :
    ((c.set p true).p1 || (c.set p true).p2 || (c.set p true).p3) = true := by
  cases p <;> simp [PerPort.set]

theorem willAnswer_iff (s : State) :
    willAnswer s = true ↔ s.settings.autoAnswer = true ∨ s.link.demands = true := by
  simp [willAnswer]

/-- In DOWN the claims decide on an answer or a try (R26, R28). -/
theorem reviewClaims_down {s : State} (h : s.link.state = .down) :
    reviewClaims s =
      if s.link.wakeHeard = true then if willAnswer s = true then enterAnswering s else s
      else if s.link.demands = true ∧ s.link.quietGuard = false ∧ s.link.tryTimer = false ∧ s.link.tryCount < 5
      then beginTry s else s := by
  by_cases heard : s.link.wakeHeard = true
  · simp [reviewClaims, answerIfWilling, h, heard]
  · simp [reviewClaims, tryIfReady, Link.tryMayBegin, h, heard, and_assoc]

/-- In SYNCED and UP the link leaves where no end demands it (R36). -/
theorem reviewClaims_traffic {s : State} (h : s.link.state = .synced ∨ s.link.state = .up) :
    reviewClaims s = if s.link.demands = false ∧ s.link.peerDemand = false then enterLeaving s else s := by
  obtain h | h := h <;> simp [reviewClaims, leaveIfUnwanted, h]

/-- In the other states a change of the claims brings nothing about. -/
theorem reviewClaims_other {s : State} (hd : s.link.state ≠ .down)
    (ht : ¬(s.link.state = .synced ∨ s.link.state = .up)) : reviewClaims s = s := by
  unfold reviewClaims
  split
  · exact absurd ‹_› hd
  · exact absurd (.inl ‹_›) ht
  · exact absurd (.inr ‹_›) ht
  · rfl

/-! ## LINK UP -/

/-- The claim set with the port added, and the try count that goes with it (R24; log entry 26). -/
def claimAdded (p : Port) (s : State) : State :=
  { s with link := { s.link with
      claims := s.link.claims.set p true
      tryCount := if s.link.state = .answering then s.link.tryCount else 0 } }

theorem claimAdded_demands (p : Port) (s : State) : (claimAdded p s).link.demands = true :=
  PerPort.set_true_demands ..

theorem exec_linkUp_taken {p : Port} {s : State} (taken : engineTakes s p 0x01#8 = true) :
    exec (.linkUp p) s = doneWith p [] (reviewClaims (claimAdded p s)) := by
  change execLinkUp p s = _
  rw [execLinkUp, taken, takeCommand_taken]
  rfl

/-- Settles O14: the claims reviewed with the port's claim among them, by the link state. -/
theorem linkUpAddsClaim : Obligations.LinkUpAddsClaim := by
  intro p s taken
  dsimp only
  rw [exec_linkUp_taken taken]
  refine congrArg (doneWith p []) ?_
  have demands := claimAdded_demands p s
  by_cases down : s.link.state = .down
  · rw [reviewClaims_down (s := claimAdded p s) down]
    by_cases heard : s.link.wakeHeard = true
    · have answers : willAnswer (claimAdded p s) = true := by simp [willAnswer, demands]
      rw [if_pos (show (claimAdded p s).link.wakeHeard = true from heard), if_pos answers,
        if_pos ⟨down, heard⟩]
      rfl
    · have fresh : (claimAdded p s).link.tryCount < 5 := by simp [claimAdded, down]
      rw [if_neg (show ¬(claimAdded p s).link.wakeHeard = true from heard),
        if_neg (fun h : s.link.state = .down ∧ s.link.wakeHeard = true => heard h.2)]
      refine if_congr ?_ rfl rfl
      simp only [demands, fresh, and_true, true_and, down]
      rfl
  · rw [if_neg (fun h => down h.1), if_neg (fun h => down h.1)]
    by_cases traffic : s.link.state = .synced ∨ s.link.state = .up
    · rw [reviewClaims_traffic (s := claimAdded p s) traffic, if_neg (by simp [demands])]
      rfl
    · rw [reviewClaims_other (s := claimAdded p s) down traffic]
      rfl

/-! ## LINK DOWN -/

/-- The claim set with the port taken out (R24). -/
def claimRemoved (p : Port) (s : State) : State :=
  { s with link := { s.link with claims := s.link.claims.set p false } }

theorem exec_linkDown_taken {p : Port} {s : State} (taken : engineTakes s p 0x02#8 = true) :
    exec (.linkDown p) s = doneWith p [] (reviewClaims (claimRemoved p s)) := by
  rw [exec_linkDown, taken, takeCommand_taken]
  rfl

/-- No claim is left (R24). -/
theorem claimRemoved_demands_eq_false (p : Port) (s : State) :
    (claimRemoved p s).link.demands = false ↔ (s.link.claims.set p false).p1 = false ∧
      (s.link.claims.set p false).p2 = false ∧ (s.link.claims.set p false).p3 = false :=
  Link.demands_eq_false_iff _

/-- In DOWN the claims left decide (R26, R28). -/
theorem reviewClaims_claimRemoved_down {p : Port} {s : State} (down : s.link.state = .down) :
    reviewClaims (claimRemoved p s) =
      if s.link.wakeHeard = true then
        if s.settings.autoAnswer = true ∨ (claimRemoved p s).link.demands = true then
          enterAnswering (claimRemoved p s)
        else claimRemoved p s
      else if (claimRemoved p s).link.demands = true ∧ s.link.quietGuard = false ∧ s.link.tryTimer = false ∧
          s.link.tryCount < 5 then beginTry (claimRemoved p s)
      else claimRemoved p s := by
  rw [reviewClaims_down (s := claimRemoved p s) down]
  refine if_congr Iff.rfl (if_congr ?_ rfl rfl) rfl
  exact willAnswer_iff _

/-- Settles O15: the claims reviewed without the port's claim, by the link state. -/
theorem linkDownRemovesClaim : Obligations.LinkDownRemovesClaim := by
  intro p s taken
  dsimp only
  rw [exec_linkDown_taken taken]
  have noneLeft := claimRemoved_demands_eq_false p s
  have someLeft : (claimRemoved p s).link.demands = true ↔ ¬((s.link.claims.set p false).p1 = false ∧
      (s.link.claims.set p false).p2 = false ∧ (s.link.claims.set p false).p3 = false) := by
    rw [← noneLeft, Bool.not_eq_false]
  refine ⟨fun down => congrArg (doneWith p []) ?awake, fun down unclaimed silent => congrArg (doneWith p []) ?idle,
    fun down => congrArg (doneWith p []) ?atRest⟩
  case awake =>
    by_cases traffic : s.link.state = .synced ∨ s.link.state = .up
    · rw [reviewClaims_traffic (s := claimRemoved p s) traffic]
      refine if_congr ?_ rfl rfl
      rw [noneLeft]
      exact ⟨fun h => ⟨traffic, h⟩, fun h => h.2⟩
    · rw [reviewClaims_other (s := claimRemoved p s) down traffic, if_neg fun h => traffic h.1]
      rfl
  case idle =>
    rw [reviewClaims_claimRemoved_down down, noneLeft.2 unclaimed, silent]
    simp [claimRemoved]
  case atRest =>
    rw [reviewClaims_claimRemoved_down down]
    exact if_congr Iff.rfl (if_congr (or_congr Iff.rfl someLeft) rfl rfl)
      (if_congr (and_congr someLeft Iff.rfl) rfl rfl)

end Sys2Proof.Machine
end

section
/-! SUPPORT. SEND SERVICE, TAKE REPORT and MAINT: their checks in order and their effects (R51, R59, R65, R167),
and the answer place (R48, R88). -/

namespace Sys2Proof.Machine

open Sys2Proof

/-! ## The answer place -/

/-- The message is written to the answer place (R48). -/
def answerWritten (s : State) (m : Message) (source : AnswerSource) : State :=
  { s with service := { s.service with answer := some ⟨m, source⟩ } }

/-- A message written to the answer place displaces what is there: an unsent AGREE of this end's schedule ends
the schedule (R48, R88). -/
abbrev displacesAgree (s : State) : Prop :=
  (∃ a, s.service.answer = some a ∧ a.source = .plan ∧ a.message.code = 0x11#8) ∧
    s.exchange.state = .scheduled ∧ s.exchange.side = some .agreer ∧ s.exchange.target = none

theorem Exchange.agreeUnsent_iff (x : Exchange) :
    x.agreeUnsent = true ↔ x.state = .scheduled ∧ x.side = some .agreer ∧ x.target = none := by
  simp [Exchange.agreeUnsent, and_assoc]

theorem writeAnswer_of_displaces {s : State} (h : displacesAgree s) (m : Message) (source : AnswerSource) :
    writeAnswer s m source = endExchange (answerWritten s m source) .withdrawn none false := by
  obtain ⟨⟨a, placed, plan, agree⟩, unsent⟩ := h
  have displaced : (decide (a.source = .plan) && decide (a.message.code = codePlanAgree) &&
      (answerWritten s m source).exchange.agreeUnsent) = true := by
    have : (answerWritten s m source).exchange.agreeUnsent = true := (Exchange.agreeUnsent_iff _).2 unsent
    simp [plan, agree, codePlanAgree, this]
  unfold writeAnswer
  rw [placed]
  exact if_pos displaced

theorem writeAnswer_of_not_displaces {s : State} (h : ¬displacesAgree s) (m : Message) (source : AnswerSource) :
    writeAnswer s m source = answerWritten s m source := by
  unfold writeAnswer
  split
  · rename_i a placed
    refine if_neg fun displaced => h ?_
    simp only [Bool.and_eq_true, decide_eq_true_eq] at displaced
    exact ⟨⟨a, placed, displaced.1.1, displaced.1.2⟩, (Exchange.agreeUnsent_iff s.exchange).1 displaced.2⟩
  · rfl

/-! ## SEND SERVICE -/

theorem LinkState.resting_iff (l : LinkState) :
    l.resting = true ↔ l = .down ∨ l = .waking ∨ l = .answering := by
  cases l <;> simp [LinkState.resting]

/-- The plan codes are 0x10 to 0x13 (R177). -/
theorem isPlanCode_iff (c : Byte) : isPlanCode c = true ↔ 0x10 ≤ c.toNat ∧ c.toNat ≤ 0x13 := by
  simp only [isPlanCode, codePlanOffer, codePlanAgree, codePlanRefuse, codePlanWithdraw, Bool.or_eq_true,
    decide_eq_true_eq, BitVec.toNat_eq, BitVec.toNat_ofNat]
  omega

theorem kind?_of_gt {b : Byte} (h : 1 < b.toNat) : kind? b = none := by
  have zero : b ≠ 0#8 := fun e => by simp [e] at h
  have one : b ≠ 1#8 := fun e => by simp [e] at h
  simp [kind?, zero, one]

theorem kind?_of_le {b : Byte} (h : b.toNat ≤ 1) :
    kind? b = some (if b = 0#8 then .order else .value) := by
  by_cases zero : b = 0#8
  · simp [kind?, zero]
  · have one : b = 1#8 := by
      have : b.toNat ≠ 0 := fun e => zero (BitVec.eq_of_toNat_eq e)
      exact BitVec.eq_of_toNat_eq (by simp; omega)
    simp [kind?, one]

/-- The message that a port's parameters name (R51, R175). -/
def namedMessage (q : PortState) : Message :=
  ⟨(param q 0).setWidth 4, if param q 1 = 0#8 then .order else .value, param q 2,
    wordOf (param q 3) (param q 4)⟩

/-- The parameters name no message, or one with a plan code, which a port may not send (R51). -/
abbrev namesNoMessage (q : PortState) : Prop :=
  15 < (param q 0).toNat ∨ 1 < (param q 1).toNat ∨
    (param q 1 = 0#8 ∧ 0x10 ≤ (param q 2).toNat ∧ (param q 2).toNat ≤ 0x13)

/-- SEND SERVICE's checks in their order, and its message (R51, R167). -/
theorem sendServiceMessage_eq (p : Port) (s : State) : sendServiceMessage p s =
    if s.settings.servicePort ≠ p then .error .notServicePort
    else if s.link.state = .down ∨ s.link.state = .waking ∨ s.link.state = .answering then .error .linkDown
    else if namesNoMessage (s.port p) then .error .badParam
    else .ok (namedMessage (s.port p)) := by
  unfold sendServiceMessage
  refine if_congr Iff.rfl rfl (if_congr (LinkState.resting_iff _) rfl ?_)
  by_cases kind : 1 < (param (s.port p) 1).toNat
  · rw [kind?_of_gt kind, if_pos (.inr (.inl kind))]
  · rw [kind?_of_le (not_lt.1 kind)]
    refine if_congr ?_ rfl rfl
    by_cases order : param (s.port p) 1 = 0#8 <;> simp [namesNoMessage, kind, order, isPlanCode_iff]

theorem exec_sendService_taken {p : Port} {s : State} (taken : engineTakes s p 0x10#8 = true)
    (clear : param (s.port p) 5 = 0#8) :
    exec (.sendService p) s = .next (complete p (sendService p s).1 (sendService p s).2) := by
  have takes : (engineTakes s p 0x10#8 && !flagParam (param (s.port p) 5)) = true := by
    simp [taken, clear, flagParam]
  change execSendService p s = _
  rw [execSendService, takes, takeCommand_taken]

theorem exec_sendServiceAnswer_taken {p : Port} {s : State} (taken : engineTakes s p 0x10#8 = true)
    (flagged : param (s.port p) 5 ≠ 0#8) :
    exec (.sendServiceAnswer p) s =
      .next (complete p (sendServiceAnswer p s).1 (sendServiceAnswer p s).2) := by
  have takes : (engineTakes s p 0x10#8 && flagParam (param (s.port p) 5)) = true := by
    simp [taken, flagged]
  change execSendServiceAnswer p s = _
  rw [execSendServiceAnswer, takes, takeCommand_taken]

/-- SEND SERVICE with the answer flag clear: the checks, then the origin queue (R49, R51). -/
theorem sendService_eq (p : Port) (s : State) : sendService p s =
    if s.settings.servicePort ≠ p then (.refuse .notServicePort, s)
    else if s.link.state = .down ∨ s.link.state = .waking ∨ s.link.state = .answering then
      (.refuse .linkDown, s)
    else if namesNoMessage (s.port p) then (.refuse .badParam, s)
    else if 3 ≤ s.service.origin.length then (.refuse .svcFull, s)
    else (.done [], { s with service := { s.service with
      origin := s.service.origin ++ [⟨namedMessage (s.port p), false⟩] } }) := by
  rw [sendService, sendServiceMessage_eq]
  generalize namedMessage (s.port p) = m
  split_ifs <;> rfl

/-- SEND SERVICE with the answer flag set: the checks, then the answer place (R48, R51). -/
theorem sendServiceAnswer_eq (p : Port) (s : State) : sendServiceAnswer p s =
    if s.settings.servicePort ≠ p then (.refuse .notServicePort, s)
    else if s.link.state = .down ∨ s.link.state = .waking ∨ s.link.state = .answering then
      (.refuse .linkDown, s)
    else if namesNoMessage (s.port p) then (.refuse .badParam, s)
    else (.done [], writeAnswer s (namedMessage (s.port p)) .other) := by
  rw [sendServiceAnswer, sendServiceMessage_eq]
  generalize namedMessage (s.port p) = m
  split_ifs <;> rfl

/-- Settles O18: the checks by `sendServiceMessage_eq`, the answer place by the two cases of
`displacesAgree`. -/
theorem sendServiceActs : Obligations.SendServiceActs := by
  refine ⟨fun p s taken clear => ?queue, fun p s taken flagged => ?answer⟩
  case queue =>
    intro q m
    rw [exec_sendService_taken taken clear, sendService_eq]
    change _ = if _ then _ else if _ then _ else if namesNoMessage q then _ else _
    split_ifs <;> rfl
  case answer =>
    intro q m written
    rw [exec_sendServiceAnswer_taken taken flagged, sendServiceAnswer_eq]
    have answered : writeAnswer s m .other =
        if displacesAgree s then endExchange written .withdrawn none false else written := by
      split
      · exact writeAnswer_of_displaces ‹_› ..
      · exact writeAnswer_of_not_displaces ‹_› ..
    change _ = if _ then _ else if _ then _ else if namesNoMessage q then _ else doneWith p []
      (if displacesAgree s then endExchange written .withdrawn none false else written)
    rw [← answered]
    split_ifs <;> rfl

/-! ## TAKE REPORT -/

/-- Settles O19: the three answers of TAKE REPORT by the port and the report queue. -/
theorem takeReportTakesOldest : Obligations.TakeReportTakesOldest := by
  intro p s taken
  have answers : exec (.takeReport p) s = .next (complete p (takeReport p s).1 (takeReport p s).2) := by
    change execTakeReport p s = _
    rw [execTakeReport, taken, takeCommand_taken]
  rw [answers, takeReport]
  refine ⟨fun foreign => ?_, fun own none => ?_, fun r rest own some => ?_⟩
  · rw [if_pos foreign]
    rfl
  · rw [if_neg (not_not.2 own), none]
  · rw [if_neg (not_not.2 own), some]
    rfl

/-! ## MAINT -/

/-- A MAINT row is taken for its own action, and for an action byte that names none (R65; log entry 8). -/
theorem takesMaint_own {p : Port} {s : State} {action : Byte} (taken : engineTakes s p 0x12#8 = true)
    (h : param (s.port p) 0 = action ∨ param (s.port p) 0 = 0#8 ∨ 8 < (param (s.port p) 0).toNat) :
    takesMaint s p action = true := by
  have unnamed {b : Byte} (hb : b = 0#8 ∨ 8 < b.toNat) : maintActions.contains b = false := by
    by_contra named
    simp only [maintActions, List.contains_eq_mem, decide_eq_true_eq, Bool.not_eq_false, List.mem_cons,
      List.not_mem_nil, or_false, BitVec.toNat_eq, BitVec.toNat_ofNat] at named hb
    omega
  obtain own | none := h
  · simp [takesMaint, taken, own]
  · rw [takesMaint, taken, unnamed none]
    simp

/-- From the service port while frames may be sent, a MAINT row makes its action (R65). -/
theorem maint_acts {p : Port} {s : State} {action : Byte} {effect : State → Option State}
    (own : s.settings.servicePort = p) (awake : s.link.state.resting = false)
    (named : param (s.port p) 0 = action) : maint p action effect s =
      match effect s with
      | some t => (.done [], t)
      | none => (.refuse .badParam, s) :=
  (if_neg (not_not.2 own)).trans ((if_neg (by simp [awake])).trans (if_neg (not_not.2 named)))

theorem execMaint_done {p : Port} {s t : State} {action : Byte} {effect : State → Option State}
    (taken : engineTakes s p 0x12#8 = true) (own : s.settings.servicePort = p)
    (awake : s.link.state.resting = false) (named : param (s.port p) 0 = action) (done : effect s = some t) :
    takeCommand (takesMaint s p action) p (maint p action effect) s = doneWith p [] t := by
  rw [takesMaint_own taken (.inl named), takeCommand_taken, maint_acts own awake named, done]
  rfl

theorem execMaint_refused {p : Port} {s : State} {action : Byte} {effect : State → Option State}
    (taken : engineTakes s p 0x12#8 = true) (own : s.settings.servicePort = p)
    (awake : s.link.state.resting = false) (named : param (s.port p) 0 = action) (refused : effect s = none) :
    takeCommand (takesMaint s p action) p (maint p action effect) s = refusedWith p .badParam s := by
  rw [takesMaint_own taken (.inl named), takeCommand_taken, maint_acts own awake named, refused]
  rfl

/-- The refusals that the MAINT rows share, in their order (R65, R167). -/
theorem execMaint_checks {p : Port} {s : State} {action : Byte} {effect : State → Option State}
    (taken : engineTakes s p 0x12#8 = true) (positive : 1 ≤ action.toNat ∧ action.toNat ≤ 8)
    (h : param (s.port p) 0 = action ∨ param (s.port p) 0 = 0#8 ∨ 8 < (param (s.port p) 0).toNat) :
    (s.settings.servicePort ≠ p →
      takeCommand (takesMaint s p action) p (maint p action effect) s = refusedWith p .notServicePort s) ∧
    (s.settings.servicePort = p → s.link.state = .down ∨ s.link.state = .waking ∨ s.link.state = .answering →
      takeCommand (takesMaint s p action) p (maint p action effect) s = refusedWith p .linkDown s) ∧
    (s.settings.servicePort = p → s.link.state ≠ .down → s.link.state ≠ .waking → s.link.state ≠ .answering →
      param (s.port p) 0 = 0#8 ∨ 8 < (param (s.port p) 0).toNat →
      takeCommand (takesMaint s p action) p (maint p action effect) s = refusedWith p .badParam s) := by
  rw [takesMaint_own taken h, takeCommand_taken, maint]
  refine ⟨fun foreign => ?_, fun own rest => ?_, fun own down waking answering unnamed => ?_⟩
  · rw [if_pos foreign]
    rfl
  · rw [if_neg (not_not.2 own), if_pos ((LinkState.resting_iff _).2 rest)]
    rfl
  · have other : param (s.port p) 0 ≠ action := fun e => by
      rw [e] at unnamed
      obtain zero | high := unnamed
      · simp [zero] at positive
      · omega
    rw [if_neg (not_not.2 own), if_neg (by simp [LinkState.resting_iff, down, waking, answering]), if_pos other]
    rfl

theorem fin?_eq_some {n : Nat} {b : Byte} {i : Fin n} (h : b.toNat = i.val) : fin? n b = some i := by
  simp [fin?, h]

theorem fin?_eq_none {n : Nat} {b : Byte} (h : n ≤ b.toNat) : fin? n b = none := by
  simp [fin?, h]

/-- Settles O20: each action by its row's `maint`, the refusals by `execMaint_checks`. -/
theorem maintActs : Obligations.MaintActs := by
  refine ⟨fun p s taken own down waking answering => ?acts, fun p s taken => ?checks⟩
  case acts =>
    have awake : s.link.state.resting = false := by
      rw [← Bool.not_eq_true, LinkState.resting_iff]
      simp [down, waking, answering]
    refine ⟨fun named => execMaint_done taken own awake named rfl, fun named i hi => ?_, fun named hi => ?_,
      fun named => execMaint_done taken own awake named rfl,
      fun named => execMaint_done taken own awake named rfl,
      fun named => execMaint_done taken own awake named rfl,
      fun named => execMaint_done taken own awake named rfl,
      fun named => execMaint_done taken own awake named rfl,
      fun named => execMaint_done taken own awake named rfl⟩
    · refine execMaint_done taken own awake named ?_
      rw [slot?, fin?_eq_some hi]
      rfl
    · refine execMaint_refused taken own awake named ?_
      rw [slot?, fin?_eq_none hi]
      rfl
  case checks =>
    intro act r hr h
    simp only [List.mem_cons, List.not_mem_nil, or_false] at hr
    obtain rfl | rfl | rfl | rfl | rfl | rfl | rfl | rfl := hr
    all_goals exact execMaint_checks taken (by decide) h

end Sys2Proof.Machine
end

section
/-! SUPPORT. The slot plan's commands, its lead slots and its digests (R70 to R76, R100, R175). -/

namespace Sys2Proof.Machine

open Sys2Proof

/-! ## SLOT ASSIGN and SLOT FREE -/

/-- A shadow edit is refused while a bank may go live (R70). -/
theorem editBusy_iff (s : State) : editBusy s = true ↔ s.exchange.state ≠ .idle ∨ s.exchange.adopt ≠ none := by
  simp [editBusy, Exchange.inFlight, Exchange.adoptionPending, Option.isSome_iff_ne_none]

theorem exec_slotAssign_taken {p : Port} {s : State} (taken : engineTakes s p 0x20#8 = true) :
    exec (.slotAssign p) s = .next (complete p (slotAssign p s).1 (slotAssign p s).2) := by
  change execSlotAssign p s = _
  rw [execSlotAssign, taken, takeCommand_taken]

theorem exec_slotFree_taken {p : Port} {s : State} (taken : engineTakes s p 0x21#8 = true) :
    exec (.slotFree p) s = .next (complete p (slotFree p s).1 (slotFree p s).2) := by
  change execSlotFree p s = _
  rw [execSlotFree, taken, takeCommand_taken]

section
variable {p : Port} {s : State} {d : Direction} {i : SlotNo} {c : ChannelNo}

/-- SLOT ASSIGN's checks in their order, and its effect (R71). -/
theorem slotAssign_of_some (hd : direction? (param (s.port p) 0) = some d)
    (hi : slot? (param (s.port p) 1) = some i) (hc : channel? (param (s.port p) 2) = some c) :
    slotAssign p s =
      if s.exchange.state ≠ .idle ∨ s.exchange.adopt ≠ none then (.refuse .planBusy, s)
      else if (s.channel c).owner ≠ some p then (.refuse .notOwner, s)
      else if (s.channel c).direction ≠ some d then (.refuse .badParam, s)
      else if (s.plan.shadowTables.table d)[i.val] ≠ none then (.refuse .inUse, s)
      else (.done (slotResult (setShadowEntry s d i (some c)) d c), setShadowEntry s d i (some c)) := by
  rw [slotAssign, hd, hi, hc]
  exact if_congr (editBusy_iff s) rfl (if_congr Iff.rfl rfl (if_congr Iff.rfl rfl
    (if_congr Option.isSome_iff_ne_none rfl rfl)))

/-- SLOT FREE's checks in their order, and its effect (R72). -/
theorem slotFree_of_some (hd : direction? (param (s.port p) 0) = some d)
    (hi : slot? (param (s.port p) 1) = some i) :
    slotFree p s =
      if s.exchange.state ≠ .idle ∨ s.exchange.adopt ≠ none then (.refuse .planBusy, s)
      else
        match (s.plan.shadowTables.table d)[i.val] with
        | none => (.refuse .state, s)
        | some c =>
          if (s.channel c).owner ≠ some p then (.refuse .notOwner, s)
          else (.done (slotResult (setShadowEntry s d i none) d c), setShadowEntry s d i none) := by
  rw [slotFree, hd, hi]
  exact if_congr (editBusy_iff s) rfl rfl

end

/-- Settles O21: each command by its checks in their order, on the fields that its parameters name. -/
theorem slotCommandsEditShadow : Obligations.SlotCommandsEditShadow := by
  refine ⟨fun p s taken => ?assign, fun p s taken => ?free⟩
  case assign =>
    rw [exec_slotAssign_taken taken]
    split
    · rename_i d i c hd hi hc
      rw [slotAssign_of_some hd hi hc]
      split_ifs
      · rfl
      · rfl
      · rfl
      · rfl
      · exact ⟨setShadowEntry s d i (some c), rfl, rfl, rfl⟩
    · rename_i unnamed
      unfold slotAssign
      split
      · exact (unnamed _ _ _ ‹_› ‹_› ‹_›).elim
      · rfl
  case free =>
    rw [exec_slotFree_taken taken]
    split
    · rename_i d i hd hi
      rw [slotFree_of_some hd hi]
      split_ifs
      · rfl
      · cases (s.plan.shadowTables.table d)[i.val] with
        | none => rfl
        | some c =>
          dsimp only
          split_ifs
          · rfl
          · exact ⟨setShadowEntry s d i none, rfl, rfl, rfl⟩
    · rename_i unnamed
      unfold slotFree
      split
      · exact (unnamed _ _ ‹_› ‹_›).elim
      · rfl

/-! ## PLAN READ and PLAN STATUS -/

/-- The marks of PLAN STATUS stand in disjoint bits, so joining them is adding their weights (R175). -/
theorem markBits_eq_sum (a b c d e : Bool) :
    (markBit 0 a ||| markBit 1 b ||| markBit 2 c ||| markBit 3 d ||| markBit 4 e) =
      byteOf ((if a then 1 else 0) + (if b then 2 else 0) + (if c then 4 else 0) + (if d then 8 else 0) +
        (if e then 16 else 0)) := by
  revert a b c d e
  decide

theorem mismatchBits_eq_sum (a b : Bool) :
    (markBit 0 a ||| markBit 1 b) = byteOf ((if a then 1 else 0) + (if b then 2 else 0)) := by
  revert a b
  decide

/-- A digest field, 0 when absent (R174). -/
theorem digestField_eq (d : Option Word) :
    digestField d = match d with | some v => field16 v | none => [0#8, 0#8] := by
  cases d <;> rfl

theorem Bank.other_eq (b : Bank) : b.other = if b = .b0 then .b1 else .b0 := by
  cases b <;> rfl

/-- Settles O22: PLAN READ by the bank byte, PLAN STATUS field by field. -/
theorem planReportsGiveState : Obligations.PlanReportsGiveState := by
  refine ⟨fun p s taken => ?read, fun p s taken => ?status⟩
  case read =>
    have answers : exec (.planRead p) s = .next (complete p (planRead p s).1 (planRead p s).2) := by
      change execPlanRead p s = _
      rw [execPlanRead, taken, takeCommand_taken]
    intro n shadow entry row
    have bytes (b : BankTables) : (List.finRange 24).map (slotByte b) = row b := by
      refine List.map_congr_left fun i _ => ?_
      unfold slotByte
      cases b.out[i.val] <;> cases b.inn[i.val] <;> rfl
    rw [answers, planRead, readBank?, ← show s.plan.active.other = shadow from Bank.other_eq _]
    simp only [← bytes]
    change _ = if n = 0#8 then _ else if n = 1#8 then _ else if n = 2#8 then _ else if n = 3#8 then _ else _
    split_ifs <;> rfl
  case status =>
    change execPlanStatus p s = _
    rw [execPlanStatus, taken, takeCommand_taken]
    dsimp only
    rw [planStatusResult, markBits_eq_sum, mismatchBits_eq_sum, digestField_eq, digestField_eq, digestField_eq]
    rfl

/-! ## Lead slots and digests -/

theorem mem_slotsOf {t : SlotTable} {c : ChannelNo} {i : SlotNo} : i ∈ slotsOf t c ↔ t[i.val] = some c := by
  simp [slotsOf]

theorem slotsOf_sorted (t : SlotTable) (c : ChannelNo) : (slotsOf t c).Pairwise (· < ·) :=
  (List.pairwise_lt_finRange 24).filter _

/-- The lead slot is the lowest slot that names the channel (R74). -/
theorem leadSlot_eq_some_iff {t : SlotTable} {c : ChannelNo} {i : SlotNo} :
    leadSlot t c = some i ↔ t[i.val] = some c ∧ ∀ j : SlotNo, j < i → t[j.val] ≠ some c := by
  have sorted := slotsOf_sorted t c
  have mem := fun j => mem_slotsOf (t := t) (c := c) (i := j)
  unfold leadSlot
  cases slots : slotsOf t c with
  | nil =>
    simp only [slots, List.not_mem_nil, false_iff] at mem
    simp [mem]
  | cons k rest =>
    rw [slots, List.pairwise_cons] at sorted
    simp only [slots, List.mem_cons] at mem
    simp only [List.head?_cons, Option.some.injEq]
    constructor
    · rintro rfl
      refine ⟨(mem k).1 (.inl rfl), fun j below named => ?_⟩
      obtain rfl | later := (mem j).2 named
      · exact lt_irrefl _ below
      · exact lt_asymm below (sorted.1 j later)
    · rintro ⟨named, lowest⟩
      obtain rfl | later := (mem i).2 named
      · rfl
      · exact absurd ((mem k).1 (.inl rfl)) (lowest k (sorted.1 i later))

theorem leadSlot_eq_none_iff {t : SlotTable} {c : ChannelNo} :
    leadSlot t c = none ↔ ∀ i : SlotNo, t[i.val] ≠ some c := by
  rw [leadSlot, List.head?_eq_none_iff, List.eq_nil_iff_forall_not_mem]
  simp only [mem_slotsOf, ne_eq]

theorem leadSlot_eq_none_iff_count {t : SlotTable} {c : ChannelNo} :
    leadSlot t c = none ↔ slotCount t c = 0 := by
  rw [leadSlot, List.head?_eq_none_iff, slotCount, List.length_eq_zero_iff]

/-- The pattern of a table at a slot: the lead slot of the channel that the slot names (R76). -/
def slotPattern (t : SlotTable) (i : SlotNo) : Option SlotNo := t[i.val].bind (leadSlot t)

/-- What one slot adds to a digest at a position (R76). -/
def digestTerm (pattern : Option SlotNo) (position : Nat) : Nat :=
  match pattern with
  | some lead => (lead.val + 1) * (position + 1)
  | none => 0

/-- A used slot's channel has a lead slot. -/
theorem leadSlot_isSome_of_named {t : SlotTable} {c : ChannelNo} {i : SlotNo} (h : t[i.val] = some c) :
    (leadSlot t c).isSome := by
  rw [Option.isSome_iff_ne_none, ne_eq, leadSlot_eq_none_iff]
  exact fun none => none i h

/-- The digest of a table rests on its pattern alone (R76). -/
theorem tableDigest_eq (t : SlotTable) (base : Nat) :
    tableDigest t base = ((List.finRange 24).map fun i => digestTerm (slotPattern t i) (base + i.val)).sum := by
  unfold tableDigest
  refine congrArg List.sum (List.map_congr_left fun i _ => ?_)
  unfold slotPattern
  cases named : t[i.val] with
  | none => rfl
  | some c =>
    obtain ⟨lead, h⟩ := Option.isSome_iff_exists.1 (leadSlot_isSome_of_named named)
    simp [h, digestTerm]

theorem tableDigest_congr {t u : SlotTable} (h : ∀ i, slotPattern t i = slotPattern u i) (base : Nat) :
    tableDigest t base = tableDigest u base := by
  simp only [tableDigest_eq, h]

/-- Settles O23: the lead slot as the head of a rising list, the digests by the tables' patterns. -/
theorem leadSlotsAndDigests : Obligations.LeadSlotsAndDigests := by
  refine ⟨fun t c => ⟨fun _ => leadSlot_eq_some_iff, leadSlot_eq_none_iff, leadSlot_eq_none_iff_count⟩,
    fun b => ⟨?_, ?_⟩, fun a b out inn => ?_⟩
  · rw [offerDigest, BitVec.toNat_ofNat, tableDigest_eq, tableDigest_eq]
    rfl
  · rw [answerDigest, BitVec.toNat_ofNat, tableDigest_eq, tableDigest_eq, Nat.add_comm]
    rfl
  · rw [offerDigest, answerDigest, tableDigest_congr out, tableDigest_congr inn]

end Sys2Proof.Machine
end

section
/-! SUPPORT. The plan exchange: its end, the bank mismatch, its commands and the peer's plan messages (R82 to
R98). -/

namespace Sys2Proof.Machine

open Sys2Proof

/-! ## Events -/

/-- PLAN raised to all ports sets it there and no other event (R161). -/
theorem raiseAll_holds (s : State) (e f : Event) (p : Port) :
    ((s.raiseAll e).port p).holds f = ((s.port p).holds f || f == e) := by
  rw [State.raiseAll_port, PortState.raise_holds]

/-! ## The end of an exchange -/

/-- The end of an exchange takes the queued offer out when the exchange is OFFERED (R82). -/
theorem endExchange_service (s : State) (k : PlanOutcomeKind) (r : Option RefusalReason) (b : Bool) :
    (endExchange s k r b).service = if s.exchange.state = .offered then { s.service with
      origin := eraseYoungest OriginEntry.isOffer s.service.origin } else s.service := by
  unfold endExchange
  dsimp only
  split <;> split <;> rfl

theorem endExchange_origin (s : State) (k : PlanOutcomeKind) (r : Option RefusalReason) (b : Bool) :
    (endExchange s k r b).service.origin = if s.exchange.state = .offered then
      eraseYoungest OriginEntry.isOffer s.service.origin else s.service.origin := by
  rw [endExchange_service]
  split <;> rfl

/-- The exchange that has ended: its items are IDLE's, and its outcome is written (R82). -/
theorem endExchange_exchange (s : State) (k : PlanOutcomeKind) (r : Option RefusalReason) (b : Bool) :
    (endExchange s k r b).exchange = { s.exchange with
      state := .idle, requester := none, side := none, offered := none, target := none, count := 0
      last := some ⟨k, r, s.exchange.requester, s.framer.cycle⟩ } := by
  unfold endExchange
  dsimp only
  split <;> split <;> rfl

@[simp] theorem endExchange_port (s : State) (k : PlanOutcomeKind) (r : Option RefusalReason) (b : Bool)
    (p : Port) : (endExchange s k r b).port p = (s.port p).raise .plan := by
  unfold endExchange
  dsimp only
  rw [writeOutcome, State.raiseAll_port]
  split <;> split <;> rfl

/-- With a swap the end of the exchange leaves the plan; without one it clears the shadow (R80). -/
theorem endExchange_plan (s : State) (k : PlanOutcomeKind) (r : Option RefusalReason) (b : Bool) :
    (endExchange s k r b).plan = if b then s.plan else (lockEndClear s).plan := by
  unfold endExchange
  dsimp only
  by_cases offered : s.exchange.state = .offered
  · rw [if_pos offered]
    cases b <;> rfl
  · rw [if_neg offered]
    cases b <;> rfl

theorem endExchange_frame (s : State) (k : PlanOutcomeKind) (r : Option RefusalReason) (b : Bool) :
    endExchange s k r b = { s with
      exchange := (endExchange s k r b).exchange, service := (endExchange s k r b).service
      plan := (endExchange s k r b).plan, ports := (endExchange s k r b).ports } := by
  unfold endExchange
  dsimp only
  split <;> split <;> rfl

/-- A queue without an offer of this end is left whole. -/
theorem eraseYoungest_of_none {l : List OriginEntry} (h : ∀ e ∈ l, e.isOffer = false) :
    eraseYoungest OriginEntry.isOffer l = l := by
  rw [eraseYoungest, List.eraseP_of_forall_not (by simpa using h), List.reverse_reverse]

/-! ## The shadow's clearing -/

/-- The entries of a table that name a channel that `keep` admits are kept, the others unassigned (R78, R80). -/
theorem keepEntries_getElem (keep : ChannelNo → Bool) (t : SlotTable) (i : SlotNo) :
    (keepEntries keep t)[i.val] = match t[i.val] with
      | some c => if keep c then some c else none
      | none => none := by
  exact Vector.getElem_ofFn _

theorem keptAtLockEnd_iff (s : State) (c : ChannelNo) :
    keptAtLockEnd s c = true ↔ (s.channel c).state ≠ .closed ∧ s.plan.pendingClear[c.val] = false := by
  simp [keptAtLockEnd, Channel.isOpen, SlotPlan.isPendingClear]

/-- A bank written leaves the other bank. -/
@[simp] theorem SlotPlan.setBank_bank_other (x : SlotPlan) (b : Bank) (t : BankTables) :
    (x.setBank b.other t).bank b = x.bank b := by
  cases b <;> rfl

@[simp] theorem SlotPlan.setBank_bank (x : SlotPlan) (b : Bank) (t : BankTables) :
    (x.setBank b t).bank b = t := by
  cases b <;> rfl

theorem SlotPlan.setBank_frame (x : SlotPlan) (b : Bank) (t : BankTables) :
    (x.setBank b t).active = x.active ∧ (x.setBank b t).receive = x.receive ∧
      (x.setBank b t).retained = x.retained := by
  cases b <;> exact ⟨rfl, rfl, rfl⟩

/-- The shadow bank replaced. -/
theorem SlotPlan.setShadow_shadowTables (x : SlotPlan) (t : BankTables) :
    (x.setShadow t).shadowTables = t := by
  obtain ⟨active, -, -⟩ := x.setBank_frame x.active.other t
  rw [SlotPlan.shadowTables, SlotPlan.setShadow, active, SlotPlan.setBank_bank]

theorem SlotPlan.setShadow_activeTables (x : SlotPlan) (t : BankTables) :
    (x.setShadow t).activeTables = x.activeTables := by
  obtain ⟨active, -, -⟩ := x.setBank_frame x.active.other t
  rw [SlotPlan.activeTables, SlotPlan.setShadow, active, SlotPlan.setBank_bank_other]
  rfl

theorem lockEndClear_active (s : State) : (lockEndClear s).plan.activeTables = s.plan.activeTables ∧
    (lockEndClear s).plan.active = s.plan.active ∧ (lockEndClear s).plan.receive = s.plan.receive ∧
    (lockEndClear s).plan.retained = s.plan.retained := by
  obtain ⟨active, receive, retained⟩ := s.plan.setBank_frame s.plan.active.other
    ⟨keepEntries (keptAtLockEnd s) s.plan.shadowTables.out, keepEntries (keptAtLockEnd s) s.plan.shadowTables.inn⟩
  exact ⟨SlotPlan.setShadow_activeTables s.plan _, active, receive, retained⟩

theorem noPendingClear_getElem (c : ChannelNo) : noPendingClear[c.val] = false :=
  Vector.getElem_replicate ..

theorem SlotPlan.shadowTables_clearPending (x : SlotPlan) (v : Vector Bool 8) :
    ({ x with pendingClear := v }).shadowTables = x.shadowTables := rfl

theorem lockEndClear_shadowTables (s : State) : (lockEndClear s).plan.shadowTables =
    ⟨keepEntries (keptAtLockEnd s) s.plan.shadowTables.out,
      keepEntries (keptAtLockEnd s) s.plan.shadowTables.inn⟩ := by
  unfold lockEndClear
  exact (SlotPlan.shadowTables_clearPending ..).trans (SlotPlan.setShadow_shadowTables ..)

theorem lockEndClear_shadow (s : State) (d : Direction) (i : SlotNo) :
    ((lockEndClear s).plan.shadowTables.table d)[i.val] =
      match (s.plan.shadowTables.table d)[i.val] with
      | some c => if (s.channel c).state ≠ .closed ∧ s.plan.pendingClear[c.val] = false then some c else none
      | none => none := by
  have table : (lockEndClear s).plan.shadowTables.table d =
      keepEntries (keptAtLockEnd s) (s.plan.shadowTables.table d) := by
    rw [lockEndClear_shadowTables]
    cases d <;> rfl
  rw [table, keepEntries_getElem]
  cases (s.plan.shadowTables.table d)[i.val] with
  | none => rfl
  | some c => exact if_congr (keptAtLockEnd_iff s c) rfl rfl

/-! ## The bank mismatch -/

/-- The second differing BANK running confirms the mismatch (R96). -/
theorem confirmMismatch_eq (s : State) (bank : Bank) :
    confirmMismatch s bank =
      let marked : State := { s with exchange := { s.exchange with mismatch := true } }
      let told : State := if s.exchange.state ≠ .idle then endExchange marked .mismatch none false
        else writeOutcome marked .mismatch none (some .peer)
      if s.framer.role = .follow then { told with exchange := { told.exchange with adopt := some bank } }
      else told := by
  have role : (if s.exchange.state ≠ .idle then
      endExchange { s with exchange := { s.exchange with mismatch := true } } .mismatch none false
      else writeOutcome { s with exchange := { s.exchange with mismatch := true } } .mismatch none
        (some .peer)).framer = s.framer := by
    split
    · exact endExchange_framer ..
    · rfl
  have flight : s.exchange.inFlight = true ↔ s.exchange.state ≠ .idle := by simp [Exchange.inFlight]
  unfold confirmMismatch
  dsimp only
  simp only [show (({ s with exchange := { s.exchange with mismatch := true } } : State).exchange.inFlight = true) ↔
    s.exchange.state ≠ .idle from flight, role]

theorem compareBank_same (s : State) {bank reference : Bank} (h : bank = reference) :
    compareBank s bank reference =
      { s with exchange := { s.exchange with mismatchRun := 0, mismatch := false } } := if_pos h

theorem compareBank_differs {s : State} {bank reference : Bank} (h : bank ≠ reference)
    (run : s.exchange.mismatchRun ≠ 1) : compareBank s bank reference =
      { s with exchange := { s.exchange with mismatchRun := min 2 (s.exchange.mismatchRun + 1) } } := by
  unfold compareBank
  rw [if_neg h]
  exact if_neg run

theorem compareBank_confirms {s : State} {bank reference : Bank} (h : bank ≠ reference)
    (run : s.exchange.mismatchRun = 1) : compareBank s bank reference =
      confirmMismatch { s with exchange := { s.exchange with mismatchRun := 2 } } bank := by
  unfold compareBank
  rw [if_neg h]
  dsimp only
  rw [if_pos run, run]
  rfl

/-- Settles O26: the end of an exchange by its parts, the mismatch by the three cases of `compareBank`. -/
theorem exchangeEndWritesOutcome : Obligations.ExchangeEndWritesOutcome := by
  refine ⟨fun s kind reason swapped => ?ends, fun s bank reference => ?mismatch⟩
  case ends =>
    intro t
    refine ⟨endExchange_exchange .., ?_, fun h => ?_, fun before offer after offered queue isOffer none => ?_,
      fun p => ?_, fun p e he => ?_, fun p => ?_, fun h => ?_, fun h => ?_, endExchange_frame ..⟩
    · rw [show t.service = _ from endExchange_service ..]
      split <;> rfl
    · rw [show t.service.origin = _ from endExchange_origin ..]
      split
      · exact eraseYoungest_of_none (h.resolve_left (not_not.2 ‹_›))
      · rfl
    · rw [show t.service.origin = _ from endExchange_origin .., if_pos offered, queue]
      exact eraseYoungest_append before after isOffer none
    · rw [show t.port p = _ from endExchange_port .., PortState.raise_holds]
      simp
    · rw [show t.port p = _ from endExchange_port .., PortState.raise_holds]
      simp [he]
    · rw [show t.port p = _ from endExchange_port ..]
      rfl
    · rw [show t.plan = _ from endExchange_plan .., if_pos h]
    · rw [show t.plan = (lockEndClear s).plan by
        rw [show t.plan = _ from endExchange_plan .., h, if_neg Bool.false_ne_true]]
      obtain ⟨active, number, receive, retained⟩ := lockEndClear_active s
      exact ⟨active, number, receive, retained, noPendingClear_getElem, lockEndClear_shadow s⟩
  case mismatch =>
    intro run confirmed told
    refine ⟨compareBank_same s, compareBank_differs, fun differs one clock => ?_, fun differs one follow => ?_⟩
    · rw [compareBank_confirms differs one, confirmMismatch_eq]
      exact if_neg (by simp [clock])
    · rw [compareBank_confirms differs one, confirmMismatch_eq]
      exact if_pos follow

/-! ## The commands -/

theorem appendPlan_of_room {s : State} (h : s.service.origin.length < 4) (m : Message) :
    appendPlan s m = { s with service := { s.service with origin := s.service.origin ++ [⟨m, true⟩] } } :=
  if_pos h

/-- Settles O24: the checks of PLAN SWITCH in their order. -/
theorem planSwitchOffers : Obligations.PlanSwitchOffers := by
  intro p s taken digest
  have answers : exec (.planSwitch p) s = .next (complete p (planSwitch p s).1 (planSwitch p s).2) := by
    change execPlanSwitch p s = _
    rw [execPlanSwitch, taken, takeCommand_taken]
  have busy : (s.exchange.inFlight || s.exchange.mismatch || s.exchange.adoptionPending) = true ↔
      s.exchange.state ≠ .idle ∨ s.exchange.mismatch = true ∨ s.exchange.adopt ≠ none := by
    simp [Exchange.inFlight, Exchange.adoptionPending, or_assoc, Option.isSome_iff_ne_none]
  rw [answers, planSwitch]
  simp only [busy]
  split_ifs with down inFlight full
  · rfl
  · rfl
  · rfl
  · dsimp only
    rw [appendPlan_of_room (not_le.1 full)]
    rfl

theorem offerQueued_iff (s : State) : offerQueued s = true ↔ ∃ e ∈ s.service.origin, e.isOffer = true :=
  List.any_eq_true

theorem offerQueued_eq_false_iff (s : State) :
    offerQueued s = false ↔ ∀ e ∈ s.service.origin, e.isOffer = false := by
  rw [← Bool.not_eq_true, offerQueued_iff]
  simp

theorem sendWithdraw_of_queued {s : State} (h : offerQueued s = true) : sendWithdraw s = s := if_pos h

/-- The WITHDRAW of R50 behind what waits. -/
def withdrawQueued (s : State) : State :=
  { s with service := { s.service with
      origin := s.service.origin ++ [⟨⟨0#4, .order, 0x13#8, 0#16⟩, true⟩] } }

theorem sendWithdraw_of_room {s : State} (h : offerQueued s = false) (room : s.service.origin.length < 4) :
    sendWithdraw s = withdrawQueued s := by
  rw [sendWithdraw, if_neg (by simp [h]), appendPlan_of_room room]
  rfl

/-- A withdrawal changes the origin queue at most (R50). -/
theorem sendWithdraw_frame (s : State) :
    sendWithdraw s = { s with service := { s.service with origin := (sendWithdraw s).service.origin } } := by
  unfold sendWithdraw appendPlan
  split
  · rfl
  · split <;> rfl

/-- A WITHDRAW is no offer: the end of the exchange leaves it in the queue. -/
theorem endExchange_withdrawQueued_origin {s : State} (h : offerQueued s = false) (k : PlanOutcomeKind)
    (r : Option RefusalReason) (b : Bool) : (endExchange (withdrawQueued s) k r b).service.origin =
      s.service.origin ++ [⟨⟨0#4, .order, 0x13#8, 0#16⟩, true⟩] := by
  rw [endExchange_origin]
  split
  · refine eraseYoungest_of_none fun e he => ?_
    obtain old | new := List.mem_append.1 he
    · exact (offerQueued_eq_false_iff s).1 h e old
    · rw [List.mem_singleton.1 new]
      rfl
  · rfl

theorem exec_planWithdraw_taken {p : Port} {s : State} (taken : engineTakes s p 0x24#8 = true) :
    exec (.planWithdraw p) s = .next (complete p (planWithdraw s).1 (planWithdraw s).2) := by
  change execPlanWithdraw p s = _
  rw [execPlanWithdraw, taken, takeCommand_taken]

/-- Settles O25: PLAN WITHDRAW by the exchange state, and what OFFERED leaves of the origin queue. -/
theorem planWithdrawEndsOffer : Obligations.PlanWithdrawEndsOffer := by
  intro p s taken
  rw [exec_planWithdraw_taken taken]
  refine ⟨fun idle => ?_, fun scheduled => ?_, fun offered => ?_⟩
  · rw [planWithdraw, idle]
    rfl
  · rw [planWithdraw, scheduled]
    rfl
  · have acts : planWithdraw s = (.done [], endExchange (sendWithdraw s) .withdrawn none false) := by
      rw [planWithdraw, offered]
    rw [acts]
    refine ⟨_, rfl, ?_, ?_, fun before offer after queue isOffer none => ?_, fun unqueued room => ?_⟩
    · rw [endExchange_exchange]
    · rw [endExchange_exchange, sendWithdraw_frame]
    · have queued : offerQueued s = true := (offerQueued_iff s).2 ⟨offer, by simp [queue], isOffer⟩
      rw [sendWithdraw_of_queued queued, endExchange_origin, if_pos offered, queue]
      exact eraseYoungest_append before after isOffer none
    · rw [sendWithdraw_of_room unqueued room]
      exact endExchange_withdrawQueued_origin unqueued ..

/-! ## The peer's messages -/

theorem displacesAgree_scheduled {s : State} (h : displacesAgree s) : s.exchange.state = .scheduled := by
  obtain ⟨-, scheduled, -⟩ := h
  exact scheduled

/-- Outside SCHEDULED a refusal is written to the answer place, and no more (R86, R89). -/
theorem refuseOffer_of_not_scheduled {s : State} (h : s.exchange.state ≠ .scheduled) (r : RefusalReason) :
    refuseOffer s r = answerWritten s ⟨0#4, .order, 0x12#8, refusalArgument r⟩ .plan :=
  writeAnswer_of_not_displaces (fun d => h (displacesAgree_scheduled d)) ..

theorem offerReceived_idle {s : State} (h : s.exchange.state = .idle) (digest : Word) :
    offerReceived s digest = offerInIdle s digest := by
  rw [offerReceived, h]

/-- An offer that cannot be taken up is refused BUSY (R86). -/
theorem offerInIdle_busy {s : State}
    (h : s.link.state ≠ .up ∨ s.exchange.mismatch = true ∨ s.exchange.adopt ≠ none) (digest : Word) :
    offerInIdle s digest = refuseOffer s .busy :=
  if_pos (by simpa [Exchange.adoptionPending, or_assoc, Option.isSome_iff_ne_none] using h)

/-- The two digests of an offer that can be taken up (R86). -/
def offerKept (s : State) (digest : Word) : State :=
  { s with exchange := { s.exchange with
      peerOffer := some digest, answer := some (answerDigest s.plan.shadowTables) } }

/-- An offer that can be taken up is agreed to when the digests match, and refused PATTERN else (R86). -/
theorem offerInIdle_free {s : State} (up : s.link.state = .up) (agree : s.exchange.mismatch = false)
    (unadopted : s.exchange.adopt = none) (digest : Word) :
    offerInIdle s digest =
      if answerDigest s.plan.shadowTables = digest then
        enterScheduled (writeAnswer (offerKept s digest) (planMessage codePlanAgree 0#16) .plan) .agreer
          (some .peer) none
      else refuseOffer (offerKept s digest) .pattern :=
  if_neg (by simp [up, agree, unadopted, Exchange.adoptionPending])

theorem withdrawReceived_eq (s : State) : withdrawReceived s =
    if s.exchange.state = .scheduled ∧ s.exchange.side = some .agreer then endExchange s .withdrawn none false
    else s := if_congr (by simp) rfl rfl

/-- Settles O28: the codes by `planReceived`, an offer by the exchange's state. -/
theorem peerOfferAnswered : Obligations.PeerOfferAnswered := by
  refine ⟨fun s m => ⟨fun h => ?_, fun h => ?_, fun h => ?_, fun h => ?_, fun h => ?_, fun h => ?_⟩,
    fun s digest a placed scheduled => ?scheduled, fun s digest => ?offer⟩
  · simp [planReceived, h, codePlanOffer]
  · simp [planReceived, h, codePlanOffer, codePlanAgree]
  · simp [planReceived, h, codePlanOffer, codePlanAgree, codePlanRefuse]
  · simp [planReceived, h, codePlanOffer, codePlanAgree, codePlanRefuse]
  · rw [withdrawReceived_eq, if_pos h]
  · rw [withdrawReceived_eq, if_neg h]
  case scheduled =>
    intro refused unsent
    have refuses : offerReceived s digest = refuseOffer s .busy := by rw [offerReceived, scheduled]
    have displaces : displacesAgree s ↔ unsent := by
      simp [displacesAgree, placed, scheduled, unsent, and_assoc]
    rw [refuses]
    exact ⟨fun h => writeAnswer_of_displaces (displaces.2 h) ..,
      fun h => writeAnswer_of_not_displaces (mt displaces.1 h) ..⟩
  case offer =>
    intro answered own kept
    refine ⟨fun scheduled empty => ?_, fun offered clock => ?_, fun idle busy => ?_, fun idle up agree none => ?_,
      fun offered follow => ?_⟩
    · rw [offerReceived, scheduled]
      exact writeAnswer_of_not_displaces (fun ⟨⟨a, placed, _⟩, _⟩ => by simp [empty] at placed) ..
    · rw [offerReceived, offered]
      exact (if_pos clock).trans (refuseOffer_of_not_scheduled (by simp [offered]) _)
    · rw [offerReceived_idle idle, offerInIdle_busy busy]
      exact refuseOffer_of_not_scheduled (by simp [idle]) _
    · have idleKept : (offerKept s digest).exchange.state ≠ .scheduled := by
        change s.exchange.state ≠ _
        simp [idle]
      rw [offerReceived_idle idle, offerInIdle_free up agree none]
      refine ⟨fun differ => ?_, fun same => ?_⟩
      · rw [if_neg differ]
        exact refuseOffer_of_not_scheduled idleKept _
      · rw [if_pos same, writeAnswer_of_not_displaces (fun d => idleKept (displacesAgree_scheduled d))]
        refine ⟨rfl, fun p => ?_⟩
        rw [enterScheduled, raiseAll_holds]
        simp
    · have ended : (endExchange s .collided Option.none false).exchange.state = .idle := by
        rw [endExchange_exchange]
      rw [offerReceived_idle ended, offerReceived, offered]
      exact if_neg (by simp [follow])

/-! ## The answer to this end's offer -/

/-- An AGREE is in time when its target lies 3 to 16 cycles ahead (R90). -/
theorem agreeReceived_offered {s : State} (offered : s.exchange.state = .offered) (argument : Word) :
    agreeReceived s argument =
      if argument.toNat ≤ 255 ∧ 3 ≤ (argument.setWidth 8 - s.framer.cycle).toNat ∧
          (argument.setWidth 8 - s.framer.cycle).toNat ≤ 16 then
        enterScheduled s .offerer s.exchange.requester (some (argument.setWidth 8))
      else endExchange (sendWithdraw s) .late none false := by
  unfold agreeReceived
  rw [if_pos offered]
  exact if_congr (by simp [and_assoc]) rfl rfl

/-- Settles O29: an AGREE by its distance, a REFUSE by its argument, both disregarded outside OFFERED. -/
theorem answerToOffer : Obligations.AnswerToOffer := by
  intro s argument distance
  refine ⟨fun other => ⟨if_neg other, if_neg other⟩, fun offered small near far => ?inTime, fun offered late => ?late,
    fun offered => if_pos offered⟩
  case inTime =>
    rw [agreeReceived_offered offered, if_pos ⟨small, near, far⟩]
    refine ⟨rfl, fun p => ?_⟩
    rw [enterScheduled, raiseAll_holds]
    simp
  case late =>
    have ended : agreeReceived s argument = endExchange (sendWithdraw s) .late none false := by
      rw [agreeReceived_offered offered]
      refine if_neg fun ⟨small, near, far⟩ => ?_
      obtain h | h | h := late <;> omega
    rw [ended]
    refine ⟨?_, ?_, fun e mem isOffer => ?_, fun none room => ?_⟩
    · rw [endExchange_exchange]
    · rw [endExchange_exchange, sendWithdraw_frame]
    · rw [sendWithdraw_of_queued ((offerQueued_iff s).2 ⟨e, mem, isOffer⟩)]
    · have unqueued := (offerQueued_eq_false_iff s).2 none
      rw [sendWithdraw_of_room unqueued room]
      exact ⟨endExchange_withdrawQueued_origin unqueued .., rfl⟩

end Sys2Proof.Machine
end

section
/-! SUPPORT. What the gate rule, a step out of a waiter list and the end of an order do to the cells, the
channels and the ports (R127, R139, R148, R149, R153). The gate rule and the ends of orders settle O40 and O42. -/

namespace Sys2Proof.Machine

open Sys2Proof

/-! ## Cells -/

/-- A second record of a change of the same cell adds nothing (R153). -/
@[simp] theorem PortState.recordChange_twice (q : PortState) (k : CellNo) :
    (q.recordChange k).recordChange k = q.recordChange k := by
  unfold PortState.recordChange PortState.raise
  split <;> simp_all [BitVec.or_assoc]

theorem writeCell_same {s : State} {k : CellNo} {v : Word} (h : (s.cell k).value = v) :
    s.writeCell k v = s := if_pos h

theorem writeCell_changed {s : State} {k : CellNo} {v : Word} (h : (s.cell k).value ≠ v) :
    s.writeCell k v = (s.setCell k { s.cell k with value := v }).recordChange k := if_neg h

theorem writeCell_written (s : State) (k : CellNo) (v : Word) :
    (s.writeCell k v).cell k = ⟨v, (s.cell k).waiters⟩ := State.writeCell_cell s k v

theorem writeCell_port (s : State) (k : CellNo) (v : Word) (p : Port) :
    (s.writeCell k v).port p =
      if (s.cell k).value = v then s.port p else (s.port p).recordChange k := by
  split
  · rw [writeCell_same ‹_›]
  · rw [writeCell_changed ‹_›, State.recordChange_port, State.setCell_port]

theorem gateTake_cell (s : State) (k : CellNo) (w : ChannelNo) (rest : List ChannelNo) :
    (gateTake s k w rest).cell k = ⟨(s.cell k).value - 1#16, rest⟩ := by
  simp [gateTake, State.writeCell_cell]

theorem gateTake_channel (s : State) (k : CellNo) (w : ChannelNo) (rest : List ChannelNo) (d : ChannelNo) :
    (gateTake s k w rest).channel d =
      if d = w then { s.channel d with state := .active } else s.channel d := by
  by_cases h : d = w
  · simp [gateTake, h]
  · simp [gateTake, h]

theorem gateTake_port (s : State) (k : CellNo) (w : ChannelNo)
    (rest : List ChannelNo) (p : Port) : (gateTake s k w rest).port p = (s.port p).recordChange k := by
  have changed : (s.cell k).value ≠ (s.cell k).value - 1#16 := by bv_omega
  simp [gateTake, writeCell_port, changed]

/-! ## The gate rule (R149) -/

/-- How many waiters the gate rule lets through: as many as the value allows. -/
def gateCount (s : State) (k : CellNo) (ws : List ChannelNo) : Nat := min (s.cell k).value.toNat ws.length

theorem gateCount_take {s : State} {k : CellNo} (h : (s.cell k).value ≠ 0#16) (w : ChannelNo)
    (rest : List ChannelNo) : gateCount s k (w :: rest) = gateCount (gateTake s k w rest) k rest + 1 := by
  unfold gateCount
  rw [gateTake_cell, List.length_cons]
  change min (s.cell k).value.toNat (rest.length + 1) =
    min ((s.cell k).value - 1#16).toNat rest.length + 1
  have below : ((s.cell k).value - 1#16).toNat = (s.cell k).value.toNat - 1 := by bv_omega
  have above : 0 < (s.cell k).value.toNat := by bv_omega
  omega

theorem gateCount_of_zero {s : State} {k : CellNo} (h : (s.cell k).value = 0#16) (ws : List ChannelNo) :
    gateCount s k ws = 0 := by
  simp [gateCount, h]

/-- The takes on a cell, one waiter after another: their number, the cell, the channels and the ports. -/
theorem gateTakes_effect (k : CellNo) (ws : List ChannelNo) : ∀ s : State, (s.cell k).waiters = ws →
    (gateTakes k ws s).2 = gateCount s k ws ∧
    (gateTakes k ws s).1.cell k =
      ⟨(s.cell k).value - BitVec.ofNat 16 (gateCount s k ws), ws.drop (gateCount s k ws)⟩ ∧
    (∀ c, (gateTakes k ws s).1.channel c =
      if c ∈ ws.take (gateCount s k ws) then { s.channel c with state := .active } else s.channel c) ∧
    ∀ p, (gateTakes k ws s).1.port p =
      if gateCount s k ws = 0 then s.port p else (s.port p).recordChange k := by
  induction ws with
  | nil =>
    intro s h
    have none : gateCount s k [] = 0 := by simp [gateCount]
    rw [none]
    refine ⟨rfl, ?_, fun c => rfl, fun p => rfl⟩
    rw [gateTakes, BitVec.sub_zero, List.drop_zero, ← h]
  | cons w rest ih =>
    intro s h
    rw [gateTakes]
    split
    · rename_i zero
      rw [gateCount_of_zero zero]
      refine ⟨rfl, ?_, fun c => rfl, fun p => rfl⟩
      rw [BitVec.sub_zero, List.drop_zero, ← h]
    · rename_i above
      obtain ⟨count, cell, channel, port⟩ := ih (gateTake s k w rest) (gateTake_waiters k s w rest)
      rw [gateCount_take above]
      dsimp only
      refine ⟨congrArg (· + 1) count, ?_, fun c => ?_, fun p => ?_⟩
      · rw [cell, gateTake_cell, List.drop_succ_cons, BitVec.ofNat_add]
        congr 1
        bv_omega
      · rw [channel, List.take_succ_cons, gateTake_channel]
        by_cases first : c = w
        · simp [first]
        · simp [first]
      · rw [port, gateTake_port, if_neg (Nat.succ_ne_zero _), PortState.recordChange_twice, ite_self]

theorem gateRule_effect (s : State) (k : CellNo) :
    let n := gateCount s k (s.cell k).waiters
    (gateRule s k).2 = n ∧
    (gateRule s k).1.cell k = ⟨(s.cell k).value - BitVec.ofNat 16 n, (s.cell k).waiters.drop n⟩ ∧
    (∀ c, (gateRule s k).1.channel c =
      if c ∈ (s.cell k).waiters.take n then { s.channel c with state := .active } else s.channel c) ∧
    ∀ p, (gateRule s k).1.port p = if n = 0 then s.port p else (s.port p).recordChange k :=
  gateTakes_effect k _ s rfl

theorem gateRule_of_zero {s : State} {k : CellNo} (h : (s.cell k).value = 0#16) : gateRule s k = (s, 0) := by
  unfold gateRule
  cases (s.cell k).waiters with
  | nil => rfl
  | cons w rest => exact if_pos h

/-- A single waiter at a cell above 0 is let through (R149). -/
theorem gateRule_of_single {s : State} {k : CellNo} {c : ChannelNo} (above : (s.cell k).value ≠ 0#16)
    (single : (s.cell k).waiters = [c]) :
    let t := (gateRule s k).1
    t.channel c = { s.channel c with state := .active } ∧ t.cell k = ⟨(s.cell k).value - 1#16, []⟩ ∧
    (∀ d, d ≠ c → t.channel d = s.channel d) ∧ (∀ l, l ≠ k → t.cell l = s.cell l) ∧
    (∀ p, t.port p = (s.port p).recordChange k) ∧
    t = { s with channels := t.channels, cells := t.cells, ports := t.ports } := by
  obtain ⟨-, cell, channel, port⟩ := gateRule_effect s k
  have one : gateCount s k (s.cell k).waiters = 1 := by
    have : 0 < (s.cell k).value.toNat := by bv_omega
    rw [gateCount, single]
    simp only [List.length_singleton]
    omega
  rw [one, single] at cell channel
  rw [one] at port
  refine ⟨?_, cell, fun d hd => ?_, (gateRule_spec s k).1.others, port, (gateRule_spec s k).1.side⟩
  · rw [channel, if_pos (by simp)]
  · rw [channel, if_neg (by simpa using hd)]

/-! ## The head order becoming current (R123) -/

theorem becomeCurrent_of_empty {s : State} {c : ChannelNo} (h : (s.channel c).queue = []) :
    becomeCurrent s c = s.setChannelState c .idle := by
  rw [becomeCurrent, h]

theorem becomeCurrent_of_ungated {s : State} {c : ChannelNo} {o : Order} {rest : List Order}
    (h : (s.channel c).queue = o :: rest) (free : o.gate = none) :
    becomeCurrent s c = s.setChannelState c .active := by
  simp only [becomeCurrent, h, free]

/-- The channel at the tail of its gate cell's waiter list, before the gate rule is applied (R148). -/
def waitingAt (s : State) (c : ChannelNo) (k : CellNo) : State :=
  (s.setChannel c { s.channel c with state := .waiting }).setCell k
    { s.cell k with waiters := (s.cell k).waiters ++ [c] }

theorem becomeCurrent_of_gated {s : State} {c : ChannelNo} {o : Order} {rest : List Order} {k : CellNo}
    (h : (s.channel c).queue = o :: rest) (gate : o.gate = some k) :
    becomeCurrent s c = (gateRule (waitingAt s c k) k).1 := by
  simp only [becomeCurrent, h, gate]
  rfl

@[simp] theorem waitingAt_cell (s : State) (c : ChannelNo) (k : CellNo) :
    (waitingAt s c k).cell k = { s.cell k with waiters := (s.cell k).waiters ++ [c] } := by
  simp [waitingAt]

theorem gateRule_waitingAt_of_zero {s : State} {c : ChannelNo} {k : CellNo} (h : (s.cell k).value = 0#16) :
    (gateRule (waitingAt s c k) k).1 = waitingAt s c k :=
  congrArg Prod.fst (gateRule_of_zero (by simpa using h))

/-- A channel that comes to a cell above 0 with no waiters takes one at once (R123, R149). -/
theorem gateRule_waitingAt_of_free {s : State} {c : ChannelNo} {k : CellNo} (above : (s.cell k).value ≠ 0#16)
    (empty : (s.cell k).waiters = []) :
    let t := (gateRule (waitingAt s c k) k).1
    t.channel c = { s.channel c with state := .active } ∧ t.cell k = ⟨(s.cell k).value - 1#16, []⟩ ∧
    (∀ d, d ≠ c → t.channel d = s.channel d) ∧ (∀ l, l ≠ k → t.cell l = s.cell l) ∧
    (∀ p, t.port p = (s.port p).recordChange k) ∧
    t = { s with channels := t.channels, cells := t.cells, ports := t.ports } := by
  obtain ⟨own, cell, others, cells, ports, side⟩ :=
    gateRule_of_single (s := waitingAt s c k) (k := k) (c := c) (by simpa using above) (by simp [empty])
  refine ⟨?_, ?_, fun d hd => ?_, fun l hl => ?_, ports, side⟩
  · rw [own]
    simp [waitingAt]
  · rw [cell]
    simp
  · rw [others d hd]
    simp [waitingAt, hd]
  · rw [cells l hl]
    simp [waitingAt, hl]

/-! ## Out of a waiter list (R148) -/

/-- The channel stands in the cell's waiter list, by its own record. -/
abbrev WaitsOn (x : Channel) (k : CellNo) : Prop := x.state = .waiting ∧ x.headGate = some k

theorem leaveIfWaiting_cell (s : State) (c : ChannelNo) (k : CellNo) : (leaveIfWaiting s c).cell k =
    if WaitsOn (s.channel c) k then
      { s.cell k with waiters := (s.cell k).waiters.filter (· != c) } else s.cell k := by
  unfold leaveIfWaiting WaitsOn Channel.headGate
  by_cases waiting : (s.channel c).state = .waiting
  · simp only [waiting, if_true, true_and]
    cases queue : (s.channel c).queue with
    | nil => simp
    | cons o rest =>
      obtain ⟨tag, count, moved, gate, completion⟩ := o
      cases gate with
      | none => simp
      | some l =>
        simp only [List.head?_cons, Option.bind_some, Option.some_inj, leaveGate, State.setCell_cell]
        by_cases same : k = l
        · rw [if_pos same, if_pos same.symm, same]
        · rw [if_neg same, if_neg (Ne.symm same)]
  · simp [waiting]

theorem leaveIfWaiting_frame (s : State) (c : ChannelNo) :
    leaveIfWaiting s c = { s with cells := (leaveIfWaiting s c).cells } := by
  unfold leaveIfWaiting
  split
  · split <;> rfl
  · rfl

theorem leaveIfWaiting_value (s : State) (c : ChannelNo) (k : CellNo) :
    ((leaveIfWaiting s c).cell k).value = (s.cell k).value := by
  rw [leaveIfWaiting_cell]
  split <;> rfl

theorem leaveIfWaiting_waiters (s : State) (c : ChannelNo) (k : CellNo) :
    ((leaveIfWaiting s c).cell k).waiters =
      if WaitsOn (s.channel c) k then (s.cell k).waiters.filter (· != c) else (s.cell k).waiters := by
  rw [leaveIfWaiting_cell]
  split <;> rfl

/-! ## The end of an order (R127) -/

/-- The record of an order's end (R176). -/
def endRecord (s : State) (c : ChannelNo) (outcome : OrderOutcome) (o : Order) : CompletionRecord :=
  ⟨c, o.tag, outcome, o.moved, s.framer.cycle⟩

/-- The head order taken from the queue and recorded: steps 1 to 3 of R127. -/
def headRecorded (s : State) (c : ChannelNo) (p : Port) (o : Order) (rest : List Order)
    (outcome : OrderOutcome) : State :=
  (s.setChannel c { s.channel c with queue := rest }).setPort p
    ((s.port p).complete (endRecord s c outcome o))

theorem recordEnd_of_owned {s : State} {c : ChannelNo} {p : Port} (owner : (s.channel c).owner = some p)
    (o : Order) (outcome : OrderOutcome) :
    recordEnd s c o outcome = s.setPort p ((s.port p).complete (endRecord s c outcome o)) := by
  rw [recordEnd, owner]
  rfl

theorem endHead_of_owned {s : State} {c : ChannelNo} {p : Port} {o : Order} {rest : List Order}
    (queue : (s.channel c).queue = o :: rest) (owner : (s.channel c).owner = some p) (outcome : OrderOutcome) :
    endHead s c outcome = countCompletion (headRecorded s c p o rest outcome) o outcome := by
  simp only [endHead, queue]
  rw [recordEnd_of_owned (p := p) (by simpa using owner)]
  rfl

theorem countCompletion_of_counted {s : State} {o : Order} {outcome : OrderOutcome} {k : CellNo}
    (counts : outcome = .done ∨ outcome = .short) (cell : o.completionCell = some k) :
    countCompletion s o outcome = incrementCell s k := by
  rw [countCompletion, if_pos (by simpa using counts), cell]

theorem countCompletion_of_quiet {s : State} {o : Order} {outcome : OrderOutcome}
    (quiet : ¬(outcome = .done ∨ outcome = .short) ∨ o.completionCell = none) :
    countCompletion s o outcome = s := by
  rcases quiet with uncounted | absent
  · exact if_neg (by simpa using uncounted)
  · rw [countCompletion, absent]
    split <;> rfl

theorem PortState.recordChange_frame (q : PortState) (k : CellNo) :
    (q.recordChange k).completions = q.completions ∧ (q.recordChange k).orderCount = q.orderCount ∧
      ∀ e, q.holds e = true → (q.recordChange k).holds e = true := by
  unfold PortState.recordChange
  split
  · refine ⟨rfl, rfl, fun e held => ?_⟩
    rw [PortState.raise_holds]
    exact Bool.or_eq_true_iff.2 (.inl held)
  · exact ⟨rfl, rfl, fun e held => held⟩

/-- The completion increment records changes on the ports, no more (R151, R153). -/
theorem incrementCell_port (s : State) (k : CellNo) (p : Port) :
    (incrementCell s k).port p = s.port p ∨ (incrementCell s k).port p = (s.port p).recordChange k := by
  obtain ⟨-, -, -, port⟩ := gateRule_effect (s.writeCell k
    (if (s.cell k).value = 0xFFFF#16 then (s.cell k).value else (s.cell k).value + 1#16)) k
  rw [incrementCell]
  rw [port, writeCell_port]
  split_ifs <;> simp

theorem incrementCell_record (s : State) (k : CellNo) (p : Port) :
    ((incrementCell s k).port p).completions = (s.port p).completions ∧
    ((incrementCell s k).port p).orderCount = (s.port p).orderCount ∧
    ∀ e, (s.port p).holds e = true → ((incrementCell s k).port p).holds e = true := by
  rcases incrementCell_port s k p with same | recorded
  · rw [same]
    exact ⟨rfl, rfl, fun e held => held⟩
  · rw [recorded]
    exact PortState.recordChange_frame _ k

theorem countCompletion_record (s : State) (o : Order) (outcome : OrderOutcome) (p : Port) :
    ((countCompletion s o outcome).port p).completions = (s.port p).completions ∧
    ((countCompletion s o outcome).port p).orderCount = (s.port p).orderCount ∧
    ∀ e, (s.port p).holds e = true → ((countCompletion s o outcome).port p).holds e = true := by
  unfold countCompletion
  split
  · split
    · exact incrementCell_record s _ p
    · exact ⟨rfl, rfl, fun e held => held⟩
  · exact ⟨rfl, rfl, fun e held => held⟩

/-- The value after a completion increment, before its takes (R151). -/
theorem incrementCell_eq (s : State) (k : CellNo) : incrementCell s k = (gateRule (s.writeCell k
    (if (s.cell k).value = 0xFFFF#16 then 0xFFFF#16 else (s.cell k).value + 1#16)) k).1 := by
  rw [incrementCell]
  split
  · rename_i top
    rw [top]
  · rfl

theorem incrementCell_of_empty {s : State} {k : CellNo} (empty : (s.cell k).waiters = []) :
    (incrementCell s k).cell k =
      ⟨if (s.cell k).value = 0xFFFF#16 then 0xFFFF#16 else (s.cell k).value + 1#16, []⟩ := by
  rw [incrementCell_eq, gateRule, State.writeCell_waiters, empty, gateTakes, writeCell_written, empty]

/-- A completion increment of a cell at 0 lets its oldest waiter through (R149, R151). -/
theorem incrementCell_of_zero {s : State} {k : CellNo} {w : ChannelNo} {ws : List ChannelNo}
    (zero : (s.cell k).value = 0#16) (list : (s.cell k).waiters = w :: ws) :
    (incrementCell s k).cell k = ⟨0#16, ws⟩ ∧ ((incrementCell s k).channel w).state = .active := by
  rw [incrementCell_eq]
  have raised : (if (s.cell k).value = 0xFFFF#16 then 0xFFFF#16 else (s.cell k).value + 1#16) = 1#16 := by
    rw [zero]
    decide
  rw [raised]
  obtain ⟨-, cell, channel, -⟩ := gateRule_effect (s.writeCell k 1#16) k
  have one : gateCount (s.writeCell k 1#16) k ((s.writeCell k 1#16).cell k).waiters = 1 := by
    simp [gateCount, State.writeCell_cell, list]
  rw [one, writeCell_written, list] at cell channel
  refine ⟨cell.trans (by simp), ?_⟩
  rw [channel, if_pos (by simp)]

/-- Settles O42: the effect of the takes, one waiter after another. -/
theorem gateReleasesOldest : Obligations.GateReleasesOldest := by
  refine ⟨fun s k _ => ?_, incrementCell_eq, fun s k v => rfl⟩
  obtain ⟨count, cell, channel, port⟩ := gateRule_effect s k
  exact ⟨count, cell, (gateRule_spec s k).1.others, channel, port, (gateRule_spec s k).1.side⟩

/-- Settles O40: the record is made before the completion cell is counted, and counting changes no record. -/
theorem orderEndRecordsOutcome : Obligations.OrderEndRecordsOutcome := by
  intro c p o rest outcome s queue owner t counts
  have ended : t = countCompletion (headRecorded s c p o rest outcome) o outcome :=
    endHead_of_owned queue owner outcome
  have left : (t.channel c).queue = rest := by
    rw [endHead_queue, if_pos rfl, queue, List.tail_cons]
  obtain ⟨records, count, holds⟩ := countCompletion_record (headRecorded s c p o rest outcome) o outcome p
  have port : (headRecorded s c p o rest outcome).port p = (s.port p).complete (endRecord s c outcome o) := by
    simp [headRecorded]
  rw [← ended, port] at records count holds
  refine ⟨left, records, count, holds _ ?_, fun quiet => ?_, fun counted k cell empty => ?_,
    fun counted k w ws cell zero list => ?_, (ChannelStep.endHead s c outcome).side, fun none => ?_,
    fun next more one free => ?_, fun next more k one gate => ?_⟩
  · simp [PortState.complete]
  · rw [ended, countCompletion_of_quiet quiet]
    exact ⟨rfl, fun q hq => by simp [headRecorded, hq], rfl⟩
  · rw [ended, countCompletion_of_counted counted cell]
    exact incrementCell_of_empty (s := headRecorded s c p o rest outcome) empty
  · rw [ended, countCompletion_of_counted counted cell]
    exact incrementCell_of_zero (s := headRecorded s c p o rest outcome) zero list
  · exact becomeCurrent_of_empty (left.trans none)
  · exact becomeCurrent_of_ungated (left.trans one) free
  · have advances : endAndAdvance s c outcome = (gateRule (waitingAt t c k) k).1 :=
      becomeCurrent_of_gated (left.trans one) gate
    refine ⟨advances, fun zero => advances.trans (gateRule_waitingAt_of_zero zero), fun above empty => ?_⟩
    rw [advances]
    exact gateRule_waitingAt_of_free above empty

end Sys2Proof.Machine
end

section
/-! SUPPORT. The swap of the banks, the check of the areas after it, and the end of an order that halts its
channel (R78, R139, R140). They settle O27. -/

namespace Sys2Proof.Machine

open Sys2Proof

/-! ## The swap (R78) -/

@[simp] theorem Bank.other_other (b : Bank) : b.other.other = b := by
  cases b <;> rfl

theorem Bank.other_ne (b : Bank) : b.other ≠ b := by
  cases b <;> decide

theorem SlotPlan.setBank_other (x : SlotPlan) (b : Bank) (t : BankTables) :
    (x.setBank b t).bank b.other = x.bank b.other := by
  cases b <;> rfl

/-- What a swap changes beside the tables: the active bank, the retained table, the pending-clear set. -/
theorem SlotPlan.bank_swapped (x : SlotPlan) (a b : Bank) (r : Option SlotTable) (v : Vector Bool 8) :
    ({ x with active := a, retained := r, pendingClear := v } : SlotPlan).bank b = x.bank b := by
  cases b <;> rfl

/-- The new shadow of a swap: the new active tables less what a swap leaves out (R78, step 2). -/
def copyAtSwap (s : State) : BankTables :=
  ⟨keepEntries (copiedAtSwap s .out) s.plan.shadowTables.out,
    keepEntries (copiedAtSwap s .inn) s.plan.shadowTables.inn⟩

theorem swapBanks_plan (s : State) : (swapBanks s).plan =
    { s.plan.setBank s.plan.active (copyAtSwap s) with
      active := s.plan.active.other, retained := some s.plan.receiveTable
      pendingClear := noPendingClear } := rfl

theorem swapBanks_active (s : State) : (swapBanks s).plan.active = s.plan.active.other := rfl

theorem swapBanks_activeTables (s : State) : (swapBanks s).plan.activeTables = s.plan.shadowTables := by
  rw [SlotPlan.activeTables, swapBanks_active, swapBanks_plan, SlotPlan.bank_swapped, SlotPlan.setBank_other]
  rfl

theorem swapBanks_shadowTables (s : State) : (swapBanks s).plan.shadowTables = copyAtSwap s := by
  rw [SlotPlan.shadowTables, swapBanks_active, Bank.other_other, swapBanks_plan, SlotPlan.bank_swapped,
    SlotPlan.setBank_bank]

theorem swapBanks_receive (s : State) : (swapBanks s).plan.receive = s.plan.receive := by
  obtain ⟨-, receive, -⟩ := s.plan.setBank_frame s.plan.active (copyAtSwap s)
  exact receive

theorem copyAtSwap_table (s : State) (d : Direction) :
    (copyAtSwap s).table d = keepEntries (copiedAtSwap s d) (s.plan.shadowTables.table d) := by
  cases d <;> rfl

theorem copiedAtSwap_iff (s : State) (d : Direction) (c : ChannelNo) : copiedAtSwap s d c = true ↔
    (s.channel c).state ≠ .closed ∧ s.plan.pendingClear[c.val] = false ∧
      (s.channel c).direction = some d := by
  rw [copiedAtSwap, Bool.and_eq_true, keptAtLockEnd_iff, beq_iff_eq, and_assoc]

/-! ## The areas' check (R140) -/

/-- The area is below two units of the channel's slots in the active bank (R75, R125, R140). -/
abbrev areaSmall (s : State) (c : ChannelNo) (d : Direction) (n : AreaNo) : Prop :=
  64 * (s.area n).count.getD 0 < 8 * slotCount (s.plan.activeTables.table d) c

theorem areaSuffices_eq {s : State} {c : ChannelNo} {d : Direction} {n : AreaNo}
    (direction : (s.channel c).direction = some d) (area : (s.channel c).area = some n) :
    areaSuffices s c = !decide (areaSmall s c d n) := by
  rw [areaSuffices, direction, area]
  by_cases small : areaSmall s c d n
  · simp only [small, decide_true, Bool.not_true, decide_eq_false_iff_not, not_le]
    exact small
  · simp only [small, decide_false, Bool.not_false, decide_eq_true_eq]
    exact not_lt.1 small

theorem checkArea_closed {s : State} {c : ChannelNo} (h : (s.channel c).state = .closed) :
    checkArea s c = s := if_neg (by simp [Channel.isOpen, h])

theorem checkArea_suffices {s : State} {c : ChannelNo} (h : areaSuffices s c = true) :
    checkArea s c = s := if_neg (by simp [h])

theorem checkArea_small {s : State} {c : ChannelNo} (opened : (s.channel c).state ≠ .closed)
    (small : areaSuffices s c = false) : checkArea s c =
      if (s.channel c).state = .waiting ∨ (s.channel c).state = .active then endAndHalt s c .areaSmall .areaSmall
      else haltChannel s c .areaSmall :=
  (if_pos (by simp [Channel.isOpen, opened, small])).trans (if_congr (by simp [Channel.hasCurrent]) rfl rfl)

theorem haltChannel_of_owned {s : State} {c : ChannelNo} {p : Port} (owner : (s.channel c).owner = some p)
    (reason : HaltReason) : haltChannel s c reason =
      (s.setChannel c { s.channel c with state := .halted, halt := some reason }).raise p .halted := by
  unfold haltChannel State.raiseOwner
  split
  · rename_i q hq
    cases owner.symm.trans hq
    rfl
  · rename_i none
    cases owner.symm.trans none

/-! ## An end that halts (R127, R139) -/

theorem endHead_of_quiet {s : State} {c : ChannelNo} {p : Port} {o : Order} {rest : List Order}
    {outcome : OrderOutcome} (queue : (s.channel c).queue = o :: rest) (owner : (s.channel c).owner = some p)
    (quiet : ¬(outcome = .done ∨ outcome = .short)) :
    endHead s c outcome = headRecorded s c p o rest outcome := by
  rw [endHead_of_owned queue owner, countCompletion_of_quiet (.inl quiet)]

theorem endAndHalt_of_quiet {s : State} {c : ChannelNo} {p : Port} {o : Order} {rest : List Order}
    {outcome : OrderOutcome} (queue : (s.channel c).queue = o :: rest) (owner : (s.channel c).owner = some p)
    (quiet : ¬(outcome = .done ∨ outcome = .short)) (reason : HaltReason) :
    endAndHalt s c outcome reason =
      ((headRecorded (leaveIfWaiting s c) c p o rest outcome).setChannel c
        { s.channel c with queue := rest, state := .halted, halt := some reason }).raise p .halted := by
  rw [endAndHalt, endHead_of_quiet (p := p) (by simpa using queue) (by simpa using owner) quiet,
    haltChannel_of_owned (p := p) (by simpa [headRecorded] using owner)]
  simp [headRecorded]

/-- Settles O27: the swap by the bank's tables, the check by its branches, the halt by the recorded end. -/
theorem swapRebuildsShadow : Obligations.SwapRebuildsShadow := by
  refine ⟨fun s => ?swap, fun order s => ⟨rfl, fun c p d n => ⟨checkArea_closed, ?check⟩⟩, ?halt⟩
  case swap =>
    refine ⟨Bank.other_ne _, swapBanks_activeTables s, swapBanks_receive s, ?_, noPendingClear_getElem,
      fun d i => ?_, rfl⟩
    · refine congrArg some ?_
      cases retained : s.plan.retained with
      | none => exact SlotPlan.receiveTable_of_none retained
      | some old => exact SlotPlan.receiveTable_of_retained retained
    · rw [swapBanks_shadowTables, copyAtSwap_table, keepEntries_getElem]
      cases (s.plan.shadowTables.table d)[i.val] with
      | none => rfl
      | some c => exact if_congr (copiedAtSwap_iff s d c) rfl rfl
  case check =>
    intro opened owner direction area
    have suffices_eq := areaSuffices_eq direction area
    refine ⟨fun large => checkArea_suffices ?_, fun small idle => ?_, fun small current => ?_⟩
    · simpa [suffices_eq] using large
    · rw [checkArea_small opened (by simpa [suffices_eq] using small), if_neg (by rcases idle with h | h <;> simp [h]),
        haltChannel_of_owned owner]
    · rw [checkArea_small opened (by simpa [suffices_eq] using small), if_pos current]
  case halt =>
    intro s c p o rest outcome reason x owner queue halts t q
    have quiet : ¬(outcome = .done ∨ outcome = .short) := by
      rcases halts with rfl | rfl | rfl <;> decide
    have halted : t = _ := endAndHalt_of_quiet queue owner quiet reason
    have gate : x.headGate = o.gate := by rw [Channel.headGate, queue]; rfl
    have cell : ∀ k, t.cell k = (leaveIfWaiting s c).cell k := fun k => by
      rw [halted]
      simp [headRecorded]
    refine ⟨?_, fun d hd => ?_, ?_, fun r hr => ?_, fun k => ?_, fun k => ?_,
      (ChannelStep.endAndHalt s c outcome reason).side⟩
    · rw [halted]
      simp [x]
    · rw [halted]
      simp [headRecorded, hd]
    · rw [halted]
      simp [headRecorded, endRecord, PortState.complete, PortState.raise, q, (ChannelStep.leaveIfWaiting s c).framer]
    · rw [halted]
      simp [headRecorded, hr]
    · rw [cell, leaveIfWaiting_value]
    · rw [cell, leaveIfWaiting_waiters, ← gate]

end Sys2Proof.Machine
end

section
/-! SUPPORT. The areas' shape and the bytes of the data windows (R101, R103, R104, R109 to R111, R155). They settle
O30 and O32. -/

namespace Sys2Proof.Machine

open Sys2Proof

/-! ## SHAPE AREA -/

/-- Two block ranges that are not empty meet exactly where neither ends before the other begins. -/
theorem ranges_meet_iff {a m b n : Nat} (hm : 1 ≤ m) (hn : 1 ≤ n) :
    (∃ x, a ≤ x ∧ x < a + m ∧ b ≤ x ∧ x < b + n) ↔ a < b + n ∧ b < a + m := by
  constructor
  · rintro ⟨x, h⟩
    omega
  · intro h
    exact ⟨max a b, by omega⟩

/-- The area covers a block (R101). -/
def Area.covers (a : Area) (b : Nat) : Prop :=
  ∃ f k, a.first = some f ∧ a.count = some k ∧ f ≤ b ∧ b < f + k

theorem Area.meetsRange_iff {a : Area} (ring : a.ringInRange) {first count : Nat} (positive : 1 ≤ count) :
    a.meetsRange first count = true ↔
      ∃ b, a.state ≠ .undefined ∧ a.covers b ∧ first ≤ b ∧ b < first + count := by
  unfold Area.covers
  rcases ring.blocks with ⟨hf, hc⟩ | ⟨f, k, hf, hc⟩
  · simp [Area.meetsRange, hf, hc]
  · obtain ⟨blocks, -⟩ := (Area.ringInRange_of_some hf hc).1 ring
    have meets := ranges_meet_iff (a := f) (b := first) blocks positive
    simp only [Area.meetsRange, hf, hc, Area.isDefined, Option.getD_some, Bool.and_eq_true, bne_iff_ne,
      decide_eq_true_eq, Option.some_inj]
    rw [and_assoc, ← meets]
    constructor
    · rintro ⟨defined, b, low, high, inside⟩
      exact ⟨b, defined, ⟨f, k, rfl, rfl, low, high⟩, inside⟩
    · rintro ⟨b, defined, ⟨_, _, rfl, rfl, low, high⟩, inside⟩
      exact ⟨defined, b, low, high, inside⟩

/-- The overlap test of R104, over the blocks of R101. -/
theorem overlapsOther_iff {s : State} (rings : RingsInRange s) (n : AreaNo) {first count : Nat}
    (positive : 1 ≤ count) : overlapsOther s n first count = true ↔
      ∃ m b, m ≠ n ∧ (s.area m).state ≠ .undefined ∧ (s.area m).covers b ∧
        first ≤ b ∧ b < first + count := by
  simp [overlapsOther, Area.meetsRange_iff (rings _) positive]

theorem shapeArea_of_some {p : Port} {s : State} {n : AreaNo} (h : area? (param (s.port p) 0) = some n) :
    let first := (param (s.port p) 1).toNat
    let count := (wordOf (param (s.port p) 2) (param (s.port p) 3)).toNat
    shapeArea p s =
      if count < 1 ∨ 256 < count then (.refuse .badParam, s)
      else if (s.area n).state ≠ .undefined ∧ (s.area n).holder ≠ some p then (.refuse .heldElsewhere, s)
      else if (s.area n).state = .bound then (.refuse .areaBound, s)
      else if 256 < first + count then (.refuse .range, s)
      else if overlapsOther s n first count = true then (.refuse .overlap, s)
      else (.done (fieldNat (64 * count)), s.setArea n ⟨.free, some p, some first, some count, 0, 0, 0, none⟩) := by
  intro first count
  unfold shapeArea
  rw [h]
  have size : (decide (count < 1) || decide (256 < count)) = true ↔ count < 1 ∨ 256 < count := by simp
  exact if_congr size rfl (if_congr (by simp [Area.isDefined]) rfl rfl)

/-- Settles O30: the checks in their order, then the overlap test block by block. -/
theorem shapeAreaDefinesRing : Obligations.ShapeAreaDefinesRing := by
  intro p s taken rings first count covers
  have runs : exec (.shapeArea p) s = .next (complete p (shapeArea p s).1 (shapeArea p s).2) := by
    change execShapeArea p s = _
    rw [execShapeArea, taken, takeCommand_taken]
  rw [runs]
  cases named : area? (param (s.port p) 0) with
  | none =>
    rw [shapeArea, named]
    rfl
  | some n =>
    have positive (size : ¬(count < 1 ∨ 256 < count)) : 1 ≤ count := by omega
    rw [shapeArea_of_some named]
    dsimp only
    split_ifs with size held bound range overlaps
    · rfl
    · rfl
    · rfl
    · rfl
    · obtain ⟨m, b, other, defined, inside⟩ := (overlapsOther_iff rings n (positive size)).1 overlaps
      exact ⟨fun _ => rfl, fun free => absurd inside.2 (free m b other defined inside.1)⟩
    · exact ⟨fun meets => absurd ((overlapsOther_iff rings n (positive size)).2 meets) overlaps, fun _ => rfl⟩

/-! ## The bytes of a data window -/

theorem windowArea_eq_some {s : State} {p : Port} {c : ChannelNo} {d : Direction} {n : AreaNo}
    (ours : (s.channel c).state ≠ .closed ∧ (s.channel c).owner = some p ∧ (s.channel c).direction = some d)
    (area : (s.channel c).area = some n) : windowArea s p c d = some n := by
  obtain ⟨opened, owner, direction⟩ := ours
  rw [← area]
  exact if_pos (by simp [Channel.isOpen, opened, owner, direction])

theorem windowArea_eq_none {s : State} {p : Port} {c : ChannelNo} {d : Direction}
    (foreign : ¬((s.channel c).state ≠ .closed ∧ (s.channel c).owner = some p ∧
      (s.channel c).direction = some d)) : windowArea s p c d = none :=
  if_neg (by simpa [Channel.isOpen, and_assoc] using foreign)

@[simp] theorem State.setPort_setPort (s : State) (p : Port) (q r : PortState) :
    (s.setPort p q).setPort p r = s.setPort p r := by
  cases p <;> rfl

@[simp] theorem State.setPort_self (s : State) (p : Port) : s.setPort p (s.port p) = s := by
  cases p <;> rfl

theorem State.setPort_same {t : State} {p : Port} {q : PortState} (h : t.port p = q) : t.setPort p q = t := by
  rw [← h, State.setPort_self]

/-- The port after a byte of a data window, `v` on SDOn and `sent` added to the bytes of its reads. -/
def windowShown (p : Port) (header : Byte) (begins ends : Bool) (v : Byte) (sent : List Byte) (s t : State) :
    State :=
  t.setPort p { t.port p with
    transaction := if ends then .off else .taken header, sdo := if ends then none else some v
    sent := (if begins then [] else (s.port p).sent) ++ sent }

/-- A byte that its port takes: where the act, on any state of the port, leads to `t` with the port as `react`
has it, SDOn and the bytes sent put in, so does the byte. -/
theorem transactByte_taken {p : Port} {header v : Byte} {begins ends : Bool} {act : State → State}
    {s t : State} {sent : List Byte} {react : PortState → PortState}
    (taken : begins = true ∨ (s.port p).transaction = .taken header)
    (bare : ∀ q x v l, react { q with transaction := x, sdo := v, sent := l } =
      { react q with transaction := x, sdo := v, sent := l })
    (acts : ∀ q, act (s.setPort p q) =
      t.setPort p (react { q with sdo := some v, sent := q.sent ++ sent })) :
    transactByte p header begins ends act s =
      windowShown p header begins ends v sent s (t.setPort p (react (s.port p))) := by
  have started : transactByte p header begins ends act s =
      let q : PortState := { s.port p with
        transaction := .taken header, sdo := if begins then some 0#8 else (s.port p).sdo
        sent := if begins then [] else (s.port p).sent }
      if ends then (act (s.setPort p q)).endAccess p else act (s.setPort p q) := by
    cases begins with
    | true => simp [transactByte, State.beginAccess, State.setTransaction, State.clearSent]
    | false =>
      have continues : (s.port p).transaction = .taken header := by simpa using taken
      have same : s.setPort p { s.port p with transaction := .taken header } = s := by
        rw [← continues]
        exact State.setPort_self s p
      simp [transactByte, continues, same]
  have reacts := bare (s.port p) (.taken header) (some v) ((if begins then [] else (s.port p).sent) ++ sent)
  rw [started]
  dsimp only
  rw [acts, reacts]
  cases ends <;> simp [windowShown, State.endAccess, State.setTransaction]

/-- A byte that the port does not take changes nothing but the end of its transaction (R170). -/
theorem transactByte_untaken {p : Port} {header : Byte} {begins ends : Bool} {act : State → State} {s : State}
    (untaken : ¬(begins = true ∨ (s.port p).transaction = .taken header)) :
    transactByte p header begins ends act s =
      if ends then s.setPort p { s.port p with transaction := .off, sdo := none } else s := by
  obtain ⟨later, other⟩ := not_or.1 untaken
  rw [Bool.not_eq_true] at later
  rw [later]
  simp only [transactByte, Bool.false_eq_true, if_false, if_neg other]
  rfl

theorem State.setPort_raise (s : State) (p : Port) (q : PortState) (e : Event) :
    (s.setPort p q).raise p e = s.setPort p (q.raise e) := by
  simp [State.raise]

theorem ringAppend_setPort (s : State) (p : Port) (q : PortState) (n : AreaNo) (b : Byte) :
    ringAppend (s.setPort p q) n b = (ringAppend s n b).setPort p q := rfl

theorem ringRemove_setPort (s : State) (p : Port) (q : PortState) (n : AreaNo) :
    ringRemove (s.setPort p q) n = (ringRemove s n).setPort p q := rfl

theorem State.setPort_sendByte (s : State) (p : Port) (q : PortState) (b : Byte) :
    (s.setPort p q).sendByte p b = s.setPort p { q with sdo := some b, sent := q.sent ++ [b] } := by
  simp [State.sendByte]

/-- The state after the free value of a written byte is drawn (log entry 27). -/
def freeDrawn (s : State) : State := { s with freeNext := s.freeNext + 1 }

theorem shiftUnstated_setPort (s : State) (p : Port) (q : PortState) : shiftUnstated (s.setPort p q) p =
    (freeDrawn s).setPort p { q with sdo := some (Config.freeByte s.freeNext), sent := q.sent ++ [] } := by
  rw [List.append_nil]
  cases p <;> rfl

/-! ## The ring of an area by its blocks (R101, R103) -/

/-- The pool address of a ring position (R101). -/
abbrev ringPlace (first pos : Nat) : Nat := 64 * (first + pos / 64) + pos % 64

/-- The position after a ring position (R103). -/
abbrev ringNext (count pos : Nat) : Nat := if pos + 1 < 64 * count then pos + 1 else 0

theorem ringAppend_of_blocks {s : State} {n : AreaNo} {first count : Nat}
    (hf : (s.area n).first = some first) (hc : (s.area n).count = some count) (b : Byte) :
    ringAppend s n b =
      { s with pool := Memory.write s.pool (ringPlace first (s.area n).writePos) b }.setArea n
        { s.area n with writePos := ringNext count (s.area n).writePos, fill := (s.area n).fill + 1 } := by
  simp only [ringAppend, Area.address, Area.advance, Area.size, hf, hc]
  rfl

theorem ringRemove_of_blocks {s : State} {n : AreaNo} {count : Nat} (hc : (s.area n).count = some count) :
    ringRemove s n = s.setArea n
      { s.area n with readPos := ringNext count (s.area n).readPos, fill := (s.area n).fill - 1 } := by
  simp only [ringRemove, Area.advance, Area.size, hc]
  rfl

theorem ringByte_of_blocks {s : State} {n : AreaNo} {first : Nat} (hf : (s.area n).first = some first) :
    ringByte s n = Memory.read s.pool (ringPlace first (s.area n).readPos) := by
  simp only [ringByte, Area.address, hf]
  rfl

theorem windowWrite_spills {s : State} {p : Port} {c : ChannelNo} {n : AreaNo}
    (meets : windowArea s p c .out = some n) (full : ¬0 < (s.area n).free) (b : Byte) :
    windowWrite p c b s = s.raise p .dataSpill := by
  rw [windowWrite, meets]
  exact if_neg full

theorem windowWrite_appends {s : State} {p : Port} {c : ChannelNo} {n : AreaNo}
    (meets : windowArea s p c .out = some n) (room : 0 < (s.area n).free) (b : Byte) :
    windowWrite p c b s = ringAppend s n b := by
  rw [windowWrite, meets]
  exact if_pos room

theorem windowWrite_foreign {s : State} {p : Port} {c : ChannelNo} (meets : windowArea s p c .out = none)
    (b : Byte) : windowWrite p c b s = s.raise p .access := by
  rw [windowWrite, meets]

theorem windowRead_spills {s : State} {p : Port} {c : ChannelNo} {n : AreaNo}
    (meets : windowArea s p c .inn = some n) (empty : ¬0 < (s.area n).fill) :
    windowRead p c s = (s.sendByte p 0#8).raise p .dataSpill := by
  rw [windowRead, dataWindowByte, meets]
  simp only [if_neg empty]

theorem windowRead_removes {s : State} {p : Port} {c : ChannelNo} {n : AreaNo}
    (meets : windowArea s p c .inn = some n) (filled : 0 < (s.area n).fill) :
    windowRead p c s = ringRemove (s.sendByte p (ringByte s n)) n := by
  rw [windowRead, dataWindowByte, meets]
  simp only [if_pos filled]

theorem windowRead_foreign {s : State} {p : Port} {c : ChannelNo} (meets : windowArea s p c .inn = none) :
    windowRead p c s = (s.sendByte p 0#8).raise p .access := by
  rw [windowRead, dataWindowByte, meets]

/-! ## The rows of the data windows -/

/-- A written byte that its port takes, by what the window makes of it once the free value is drawn. -/
theorem execDataWindowWrite_taken {p : Port} {c : ChannelNo} {b : Byte} {begins ends : Bool} {s t : State}
    {react : PortState → PortState}
    (taken : begins = true ∨ (s.port p).transaction = .taken (writeHeader (.data c)))
    (bare : ∀ q x v l, react { q with transaction := x, sdo := v, sent := l } =
      { react q with transaction := x, sdo := v, sent := l })
    (acts : ∀ q, windowWrite p c b ((freeDrawn s).setPort p q) = t.setPort p (react q)) :
    exec (.dataWindowWrite p c ⟨b, begins, ends⟩) s = .next (windowShown p (writeHeader (.data c)) begins ends
      (Config.freeByte s.freeNext) [] s (t.setPort p (react (s.port p)))) :=
  congrArg Host.Outcome.next
    (transactByte_taken taken bare fun q => by rw [shiftUnstated_setPort, acts])

/-- A read byte that its port takes, by what the window makes of it. -/
theorem execDataWindowRead_taken {p : Port} {c : ChannelNo} {v : Byte} {begins ends : Bool} {s t : State}
    {react : PortState → PortState}
    (taken : begins = true ∨ (s.port p).transaction = .taken (readHeader (.data c)))
    (bare : ∀ q x v l, react { q with transaction := x, sdo := v, sent := l } =
      { react q with transaction := x, sdo := v, sent := l })
    (acts : ∀ q, windowRead p c (s.setPort p q) =
      t.setPort p (react { q with sdo := some v, sent := q.sent ++ [v] })) :
    exec (.dataWindowRead p ⟨c, begins, ends⟩) s = .next (windowShown p (readHeader (.data c)) begins ends
      v [v] s (t.setPort p (react (s.port p)))) :=
  congrArg Host.Outcome.next (transactByte_taken taken bare acts)

theorem readHeader_data (c : ChannelNo) : readHeader (.data c) = byteOf (134 + c.val) := by
  rw [readHeader, Window.number, ← Nat.add_assoc]

/-- Settles O32: one row per byte, by what the window makes of it on any state of the port. -/
theorem dataWindowMovesBytes : Obligations.DataWindowMovesBytes := by
  intro p c b begins ends s ours taken write read writing reading shown passed drawn
  have header : readHeader (.data c) = reading := readHeader_data c
  refine ⟨fun untaken => congrArg Host.Outcome.next (transactByte_untaken untaken),
    fun untaken => congrArg Host.Outcome.next (transactByte_untaken ?_), fun goes foreign => ?_,
    Config.freeByte s.freeNext, fun goes foreign => ?_, fun n first count area hf hc => ?_⟩
  · rw [header]
    exact untaken
  · have foreign := windowArea_eq_none foreign
    rw [← header] at goes
    have row := execDataWindowRead_taken (ends := ends) (v := 0#8) (t := s) (react := (·.raise .access)) goes
      (fun _ _ _ _ => rfl) fun q => by
        rw [windowRead_foreign (s := s.setPort p q) foreign, State.setPort_sendByte, State.setPort_raise]
    rw [header] at row
    exact row
  · have foreign := windowArea_eq_none foreign
    exact execDataWindowWrite_taken (ends := ends) (t := drawn) (react := (·.raise .access)) goes
      (fun _ _ _ _ => rfl) fun q => by
        rw [windowWrite_foreign (s := (freeDrawn s).setPort p q) foreign, State.setPort_raise]
        rfl
  · intro a size next place
    refine ⟨fun goes own => ?_, fun goes own => ?_⟩
    · have meets := windowArea_eq_some own area
      have room : 0 < (s.area n).free ↔ a.fill < size := by
        rw [Area.free, Area.size, hc]
        exact Nat.sub_pos_iff_lt
      split_ifs with fits
      · have row := execDataWindowWrite_taken (ends := ends) (b := b) (react := id)
          (t := ringAppend drawn n b) goes (fun _ _ _ _ => rfl) fun q => by
            rw [windowWrite_appends (s := (freeDrawn s).setPort p q) meets (room.2 fits), ringAppend_setPort]
            rfl
        rw [id, State.setPort_same (t := ringAppend drawn n b) (q := s.port p) rfl,
          ringAppend_of_blocks (s := drawn) hf hc] at row
        exact row
      · exact execDataWindowWrite_taken (ends := ends) (b := b) (t := drawn) (react := (·.raise .dataSpill)) goes
          (fun _ _ _ _ => rfl) fun q => by
            rw [windowWrite_spills (s := (freeDrawn s).setPort p q) meets (mt room.1 fits), State.setPort_raise]
            rfl
    · have meets := windowArea_eq_some own area
      rw [← header] at goes
      dsimp only
      split_ifs with filled
      · have row := execDataWindowRead_taken (ends := ends) (v := ringByte s n) (react := id)
          (t := ringRemove s n) goes (fun _ _ _ _ => rfl) fun q => by
            rw [windowRead_removes (s := s.setPort p q) meets filled, State.setPort_sendByte, ringRemove_setPort]
            rfl
        rw [header, id, State.setPort_same (t := ringRemove s n) (q := s.port p) rfl, ringByte_of_blocks hf,
          ringRemove_of_blocks hc] at row
        exact row
      · have row := execDataWindowRead_taken (ends := ends) (v := 0#8) (t := s) (react := (·.raise .dataSpill))
          goes (fun _ _ _ _ => rfl) fun q => by
            rw [windowRead_spills (s := s.setPort p q) meets filled, State.setPort_sendByte, State.setPort_raise]
        rw [header] at row
        exact row

end Sys2Proof.Machine
end

section
/-! SUPPORT. The commands on channels: OPEN, the checks on an own channel, POST ORDER, RESUME, CHANNEL STATUS and
TAKE COMPLETION (R118 to R126, R164). They settle O33, O34, O36, O38 and O39. -/

namespace Sys2Proof.Machine

open Sys2Proof

/-! ## OPEN -/

theorem openChannel_of_some {p : Port} {s : State} {c : ChannelNo} {d : Direction} {n : AreaNo}
    (hc : channel? (param (s.port p) 0) = some c) (hd : direction? (param (s.port p) 1) = some d)
    (hn : area? (param (s.port p) 2) = some n) :
    openChannel p s =
      if (s.channel c).state ≠ .closed then (.refuse .owned, s)
      else if (s.area n).state = .undefined then (.refuse .areaUndefined, s)
      else if (s.area n).holder ≠ some p then (.refuse .heldElsewhere, s)
      else if (s.area n).state ≠ .free then (.refuse .areaBound, s)
      else if areaSmall s c d n then (.refuse .areaSmall, s)
      else (.done (openResult s d c), bindArea (s.setChannel c (Channel.opened p d n)) n c) := by
  rw [openChannel, hc, hd, hn]
  exact if_congr (by simp [Channel.isOpen]) rfl rfl

/-- Settles O33: the checks in their order, the results from the active bank. -/
theorem openBindsArea : Obligations.OpenBindsArea := by
  intro p s taken
  have runs : exec (.openChannel p) s = .next (complete p (openChannel p s).1 (openChannel p s).2) := by
    change execOpenChannel p s = _
    rw [execOpenChannel, taken, takeCommand_taken]
  rw [runs]
  cases hc : channel? (param (s.port p) 0) with
  | none =>
    rw [openChannel, hc]
    rfl
  | some c =>
    cases hd : direction? (param (s.port p) 1) with
    | none =>
      rw [openChannel, hc, hd]
      rfl
    | some d =>
      cases hn : area? (param (s.port p) 2) with
      | none =>
        rw [openChannel, hc, hd, hn]
        rfl
      | some n =>
        rw [openChannel_of_some hc hd hn]
        dsimp only
        split_ifs
        · rfl
        · rfl
        · rfl
        · rfl
        · rfl
        · cases d <;> rfl

/-! ## The checks on an own channel (R119, R122, R124, R125) -/

section OwnChannel
variable {p : Port} {s : State} {valid : Bool} {act : ChannelNo → State → Reply × State} {c : ChannelNo}

theorem onOwnChannel_unnamed (unnamed : channel? (param (s.port p) 0) = none) :
    onOwnChannel p valid act s = (.refuse .badParam, s) := by
  rw [onOwnChannel, unnamed]

theorem onOwnChannel_invalid : onOwnChannel p false act s = (.refuse .badParam, s) := by
  unfold onOwnChannel
  split <;> rfl

theorem onOwnChannel_closed (named : channel? (param (s.port p) 0) = some c)
    (closed : (s.channel c).state = .closed) : onOwnChannel p true act s = (.refuse .state, s) := by
  rw [onOwnChannel, named]
  exact (if_neg (by decide)).trans (if_pos (by simp [Channel.isOpen, closed]))

theorem onOwnChannel_foreign (named : channel? (param (s.port p) 0) = some c)
    (opened : (s.channel c).state ≠ .closed) (foreign : (s.channel c).owner ≠ some p) :
    onOwnChannel p true act s = (.refuse .notOwner, s) := by
  rw [onOwnChannel, named]
  exact (if_neg (by decide)).trans ((if_neg (by simp [Channel.isOpen, opened])).trans (if_pos foreign))

theorem onOwnChannel_acts (named : channel? (param (s.port p) 0) = some c)
    (opened : (s.channel c).state ≠ .closed) (own : (s.channel c).owner = some p) :
    onOwnChannel p true act s = act c s := by
  rw [onOwnChannel, named]
  exact (if_neg (by decide)).trans ((if_neg (by simp [Channel.isOpen, opened])).trans (if_neg (not_not.2 own)))

/-- The three checks, for a row that answers as its command on an own channel does. -/
theorem ownChannel_refusals {i : Instr}
    (runs : exec i s = takeCommand true p (onOwnChannel p true act) s) :
    (channel? (param (s.port p) 0) = none → exec i s = refusedWith p .badParam s) ∧
    ∀ c, channel? (param (s.port p) 0) = some c →
      ((s.channel c).state = .closed → exec i s = refusedWith p .state s) ∧
      ((s.channel c).state ≠ .closed → (s.channel c).owner ≠ some p → exec i s = refusedWith p .notOwner s) := by
  rw [runs, takeCommand_taken]
  refine ⟨fun unnamed => ?_, fun c named => ⟨fun closed => ?_, fun opened foreign => ?_⟩⟩
  · rw [onOwnChannel_unnamed unnamed]
    rfl
  · rw [onOwnChannel_closed named closed]
    rfl
  · rw [onOwnChannel_foreign named opened foreign]
    rfl

end OwnChannel

/-! ## The rows of the commands on an own channel -/

theorem exec_closeChannel_taken {p : Port} {s : State} (taken : engineTakes s p 0x41#8 = true) :
    exec (.closeChannel p) s = takeCommand true p (onOwnChannel p true closeOwn) s := by
  change execCloseChannel p s = _
  rw [execCloseChannel, taken]

theorem exec_resume_taken {p : Port} {s : State} (taken : engineTakes s p 0x44#8 = true) :
    exec (.resume p) s = takeCommand true p (onOwnChannel p true resumeOwn) s := by
  change execResume p s = _
  rw [execResume, taken]

theorem exec_abortCurrent_taken {p : Port} {s : State} (taken : engineTakes s p 0x43#8 = true)
    (scope : param (s.port p) 1 = 0#8) :
    exec (.abortCurrent p) s = takeCommand true p (onOwnChannel p true abortCurrentOwn) s := by
  change execAbortCurrent p s = _
  rw [execAbortCurrent, takesAbort, taken, scope]
  rfl

theorem exec_abortAll_taken {p : Port} {s : State} (taken : engineTakes s p 0x43#8 = true)
    (scope : param (s.port p) 1 = 1#8) :
    exec (.abortAll p) s = takeCommand true p (onOwnChannel p true abortAllOwn) s := by
  change execAbortAll p s = _
  rw [execAbortAll, takesAbort, taken, scope]
  rfl

/-- The byte count of a POST ORDER (R122, R174). -/
abbrev postedCount (q : PortState) : Nat := (wordOf (param q 2) (param q 3)).toNat

theorem exec_postOrder_taken {p : Port} {s : State} (taken : engineTakes s p 0x42#8 = true) :
    exec (.postOrder p) s = takeCommand true p (postOrder p) s := by
  change execPostOrder p s = _
  rw [execPostOrder, taken]

theorem postOrder_of_cells {p : Port} {s : State} {gate completion : Option CellNo}
    (hg : optionalCell? (param (s.port p) 4) = some gate)
    (hk : optionalCell? (param (s.port p) 5) = some completion) :
    postOrder p s = onOwnChannel p (1 ≤ postedCount (s.port p))
      (postOwn p ⟨param (s.port p) 1, postedCount (s.port p), 0, gate, completion⟩) s := by
  rw [postOrder, postCells, hg, hk]
  rfl

theorem optionalCell?_isSome {b : Byte} (h : b.toNat ≤ 15 ∨ b = 0xFF#8) : ∃ k, optionalCell? b = some k := by
  unfold optionalCell? absentMark
  split
  · exact ⟨_, rfl⟩
  · rename_i present
    have inRange : b.toNat < 16 := Nat.lt_succ_of_le (h.resolve_right present)
    exact ⟨some ⟨b.toNat, inRange⟩, by simp [cell?, fin?, inRange]⟩

theorem optionalCell?_eq_none {b : Byte} (high : 15 < b.toNat) (present : b ≠ 0xFF#8) :
    optionalCell? b = none := by
  rw [optionalCell?, if_neg (show ¬b = absentMark from present), cell?, fin?_eq_none high]
  rfl

theorem wordOf_positive {lo hi : Byte} (h : lo ≠ 0#8 ∨ hi ≠ 0#8) : 1 ≤ (wordOf lo hi).toNat := by
  rw [wordOf, BitVec.toNat_append, ← Nat.shiftLeft_add_eq_or_of_lt lo.isLt, Nat.shiftLeft_eq]
  rcases h with low | high
  · have : 1 ≤ lo.toNat := by bv_omega
    omega
  · have : 1 ≤ hi.toNat := by bv_omega
    omega

/-- Settles O34: each row answers as its command on an own channel does. -/
theorem ownChannelChecks : Obligations.OwnChannelChecks := by
  intro p s r hr taken current all posted
  have checks : (channel? (param (s.port p) 0) = none → exec r.1 s = refusedWith p .badParam s) ∧
      ∀ c, channel? (param (s.port p) 0) = some c →
        ((s.channel c).state = .closed → exec r.1 s = refusedWith p .state s) ∧
        ((s.channel c).state ≠ .closed → (s.channel c).owner ≠ some p →
          exec r.1 s = refusedWith p .notOwner s) := by
    simp only [List.mem_cons, List.not_mem_nil, or_false] at hr
    rcases hr with rfl | rfl | rfl | rfl | rfl
    · exact ownChannel_refusals (exec_closeChannel_taken taken)
    · obtain ⟨count, cells⟩ := posted rfl
      obtain ⟨gate, hg⟩ := optionalCell?_isSome (cells 4 (by simp))
      obtain ⟨completion, hk⟩ := optionalCell?_isSome (cells 5 (by simp))
      refine ownChannel_refusals (act := postOwn p
        ⟨param (s.port p) 1, postedCount (s.port p), 0, gate, completion⟩) ?_
      rw [exec_postOrder_taken taken, takeCommand_taken, takeCommand_taken, postOrder_of_cells hg hk,
        decide_eq_true (wordOf_positive count)]
    · exact ownChannel_refusals (exec_abortCurrent_taken taken (current rfl))
    · exact ownChannel_refusals (exec_abortAll_taken taken (all rfl))
    · exact ownChannel_refusals (exec_resume_taken taken)
  cases named : channel? (param (s.port p) 0) with
  | none => exact checks.1 named
  | some c => exact checks.2 c named

/-! ## POST ORDER -/

theorem channel?_eq_some {b : Byte} {c : ChannelNo} (h : b.toNat = c.val) : channel? b = some c :=
  fin?_eq_some h

section PostOwn
variable {p : Port} {o : Order} {c : ChannelNo} {s : State}

theorem postOwn_full (full : 4 ≤ (s.channel c).queue.length) :
    postOwn p o c s = (.refuse .queueFull, s) := if_pos full

theorem postOwn_crowded (short : (s.channel c).queue.length < 4)
    (crowded : 16 ≤ (s.port p).orderCount + (s.port p).completions.length) :
    postOwn p o c s = (.refuse .noRoom, s) := (if_neg (not_le.2 short)).trans (if_pos crowded)

/-- The results of POST ORDER: the queue's length and the port's room, the order counted (R122). -/
abbrev postResults (q : PortState) (x : Channel) : List Byte :=
  [byteOf (x.queue.length + 1), byteOf (16 - (q.orderCount + 1) - q.completions.length)]

theorem postOwn_posts (short : (s.channel c).queue.length < 4)
    (room : (s.port p).orderCount + (s.port p).completions.length < 16) :
    postOwn p o c s = (.done (postResults (s.port p) (s.channel c)),
      if (s.channel c).state = .idle then becomeCurrent (appendOrder p c o s) c else appendOrder p c o s) := by
  have port : (appendOrder p c o s).port p =
      { s.port p with orderCount := (s.port p).orderCount + 1 } := by simp [appendOrder]
  refine (if_neg (not_le.2 short)).trans ((if_neg (not_le.2 room)).trans ?_)
  dsimp only
  rw [port]
  rfl

theorem appendOrder_channel (d : ChannelNo) : (appendOrder p c o s).channel d =
    if d = c then { s.channel c with queue := (s.channel c).queue ++ [o] } else s.channel d := by
  simp [appendOrder]

end PostOwn

/-- Settles O36: the checks, the order at the tail, and on an IDLE channel the head becoming current. -/
theorem postOrderQueues : Obligations.PostOrderQueues := by
  refine ⟨fun p s taken wrong => ?wrong, ?posts⟩
  case wrong =>
    rw [exec_postOrder_taken taken, takeCommand_taken]
    have absent : postCells (s.port p) = none := by
      obtain ⟨i, hi, high, present⟩ := wrong
      have none := optionalCell?_eq_none high present
      simp only [List.mem_cons, List.not_mem_nil, or_false] at hi
      rcases hi with rfl | rfl
      · rw [postCells, none]
      · rw [postCells, none]
        split <;> simp_all
    rw [postOrder, absent]
    rfl
  case posts =>
    intro p c gate completion s taken index opened own hg hk q count x o posted results
    have named := channel?_eq_some index
    have runs : exec (.postOrder p) s = .next (complete p
        (onOwnChannel p (1 ≤ count) (postOwn p o) s).1 (onOwnChannel p (1 ≤ count) (postOwn p o) s).2) := by
      rw [exec_postOrder_taken taken, takeCommand_taken, postOrder_of_cells hg hk]
    have acts (positive : 1 ≤ count) :
        exec (.postOrder p) s = .next (complete p (postOwn p o c s).1 (postOwn p o c s).2) := by
      rw [runs, decide_eq_true positive, onOwnChannel_acts named opened own]
    have current (positive : 1 ≤ count) (short : x.queue.length < 4)
        (room : q.orderCount + q.completions.length < 16) (idle : x.state = .idle) :
        exec (.postOrder p) s = doneWith p results (becomeCurrent posted c) := by
      rw [acts positive, postOwn_posts short room, if_pos idle]
      rfl
    have single (empty : x.queue = []) : posted.channel c = { x with queue := [o] } := by
      refine (appendOrder_channel (p := p) (o := o) (s := s) c).trans ((if_pos rfl).trans ?_)
      rw [show (s.channel c).queue = [] from empty]
      rfl
    refine ⟨fun zero => ?_, fun positive full => ?_, fun positive short crowded => ?_,
      fun positive short room => ⟨fun busy => ?_, fun idle empty free => ?_, fun k idle empty gated zero => ?_,
        fun k idle empty gated above clear => ?_⟩⟩
    · rw [runs, decide_eq_false (by omega), onOwnChannel_invalid]
      rfl
    · rw [acts positive, postOwn_full full]
      rfl
    · rw [acts positive, postOwn_crowded short crowded]
      rfl
    · rw [acts positive, postOwn_posts short room, if_neg busy]
      rfl
    · have head : (posted.channel c).queue = [o] := congrArg Channel.queue (single empty)
      rw [current positive short room idle, becomeCurrent_of_ungated head free, State.setChannelState, single empty]
    · have head : (posted.channel c).queue = [o] := congrArg Channel.queue (single empty)
      rw [current positive short room idle, becomeCurrent_of_gated head gated, gateRule_waitingAt_of_zero (s := posted) zero,
        waitingAt, single empty]
      rfl
    · have head : (posted.channel c).queue = [o] := congrArg Channel.queue (single empty)
      obtain ⟨channel, cell, others, cells, ports, side⟩ :=
        gateRule_waitingAt_of_free (s := posted) (c := c) (k := k) above clear
      refine ⟨_, (current positive short room idle).trans
        (congrArg _ (becomeCurrent_of_gated head gated)), ?_, cell, fun d hd => ?_, cells, ports, side⟩
      · rw [channel, single empty]
      · exact (others d hd).trans ((appendOrder_channel (p := p) (o := o) (s := s) d).trans (if_neg hd))

/-! ## RESUME -/

/-- The channel with its halt reason taken away (R125). -/
def haltCleared (s : State) (c : ChannelNo) : State := s.setChannel c { s.channel c with halt := none }

section ResumeOwn
variable {c : ChannelNo} {s : State}

theorem resumeOwn_awake (awake : (s.channel c).state ≠ .halted) : resumeOwn c s = (.refuse .state, s) :=
  if_pos awake

theorem resumeOwn_small (halted : (s.channel c).state = .halted) (small : areaSuffices s c = false) :
    resumeOwn c s = (.refuse .areaSmall, s) := (if_neg (not_not.2 halted)).trans (if_pos (by simp [small]))

theorem resumeOwn_restarts (halted : (s.channel c).state = .halted) (large : areaSuffices s c = true) :
    resumeOwn c s = (.done [channelStateField ((becomeCurrent (haltCleared s c) c).channel c).state],
      becomeCurrent (haltCleared s c) c) :=
  (if_neg (not_not.2 halted)).trans (if_neg (by simp [large]))

@[simp] theorem haltCleared_channel (d : ChannelNo) : (haltCleared s c).channel d =
    if d = c then { s.channel c with halt := none } else s.channel d := by
  simp [haltCleared]

theorem haltCleared_queue : ((haltCleared s c).channel c).queue = (s.channel c).queue := by
  simp

theorem haltCleared_setChannel (x : Channel) : (haltCleared s c).setChannel c x = s.setChannel c x := by
  simp [haltCleared, State.setChannel]

end ResumeOwn

/-- Settles O38: the checks, and the head becoming current on the channel with its halt reason away. -/
theorem resumeRestartsChannel : Obligations.ResumeRestartsChannel := by
  intro p c d n s taken index own direction area x small
  have named := channel?_eq_some index
  have suffices_eq : areaSuffices s c = !decide small := areaSuffices_eq direction area
  have acts (opened : x.state ≠ .closed) :
      exec (.resume p) s = .next (complete p (resumeOwn c s).1 (resumeOwn c s).2) := by
    rw [exec_resume_taken taken, takeCommand_taken, onOwnChannel_acts named opened own]
  have restarts (halted : x.state = .halted) (large : ¬small) : exec (.resume p) s =
      doneWith p [channelStateField ((becomeCurrent (haltCleared s c) c).channel c).state]
        (becomeCurrent (haltCleared s c) c) := by
    rw [acts (by rw [halted]; decide), resumeOwn_restarts halted (by simpa [suffices_eq] using large)]
    rfl
  have idle (empty : x.queue = []) := becomeCurrent_of_empty (haltCleared_queue.trans empty)
  refine ⟨fun awake => ?_, fun halted short => ?_, fun halted large empty => ?_,
    fun o rest halted large queue free => ?_, fun o rest k halted large queue gated zero => ?_,
    fun o rest k halted large queue gated above clear => ?_⟩
  · by_cases closed : x.state = .closed
    · rw [exec_resume_taken taken, takeCommand_taken, onOwnChannel_closed named closed]
      rfl
    · rw [acts closed, resumeOwn_awake awake]
      rfl
  · rw [acts (by rw [halted]; decide), resumeOwn_small halted (by simpa [suffices_eq] using short)]
    rfl
  · rw [restarts halted large, idle empty, State.setChannelState, haltCleared_setChannel]
    simp [channelStateField, x]
  · rw [restarts halted large, becomeCurrent_of_ungated (haltCleared_queue.trans queue) free,
      State.setChannelState, haltCleared_setChannel]
    simp [channelStateField, x]
  · rw [restarts halted large, becomeCurrent_of_gated (haltCleared_queue.trans queue) gated,
      gateRule_waitingAt_of_zero (s := haltCleared s c) zero, waitingAt, haltCleared_setChannel]
    simp [channelStateField, x]
    rfl
  · obtain ⟨channel, cell, others, cells, ports, side⟩ :=
      gateRule_waitingAt_of_free (s := haltCleared s c) (c := c) (k := k) above clear
    have current := becomeCurrent_of_gated (haltCleared_queue.trans queue) gated
    refine ⟨_, (restarts halted large).trans ?_, ?_, cell, fun e he => ?_, cells, ports, side⟩
    · rw [current, channel]
      rfl
    · rw [channel]
      simp [x]
    · rw [others e he]
      simp [he]

/-! ## CHANNEL STATUS and TAKE COMPLETION -/

theorem exec_channelStatus_taken {p : Port} {s : State} (taken : engineTakes s p 0x45#8 = true) :
    exec (.channelStatus p) s = .next (complete p (channelStatus p s).1 (channelStatus p s).2) := by
  change execChannelStatus p s = _
  rw [execChannelStatus, taken, takeCommand_taken]

theorem exec_takeCompletion_taken {p : Port} {s : State} (taken : engineTakes s p 0x46#8 = true) :
    exec (.takeCompletion p) s = .next (complete p (takeCompletion p s).1 (takeCompletion p s).2) := by
  change execTakeCompletion p s = _
  rw [execTakeCompletion, taken, takeCommand_taken]

theorem channelStatus_of_some {p : Port} {s : State} {c : ChannelNo}
    (named : channel? (param (s.port p) 0) = some c) :
    channelStatus p s = (.done (channelStatusResult s c), statusDraws s c) := by
  rw [channelStatus, named]

/-- The two parts of a CHANNEL STATUS result around the three bytes of the slots (R175). -/
theorem channelStatusResult_eq (s : State) (c : ChannelNo) :
    let x := s.channel c
    channelStatusResult s c =
      [channelStateField x.state, portField x.owner, directionField x.direction, numberField x.area,
        haltField x.halt, flagField x.loopPause] ++ statusSlotBytes s c ++
      ([byteOf x.queue.length] ++ headBytes x.queue ++ x.queue.tail.map Order.tag) := by
  simp only [channelStatusResult, List.append_assoc]

section Status
variable {s : State} {c : ChannelNo} {d : Direction}

theorem statusSlotBytes_of_some (h : (s.channel c).direction = some d) :
    let t := s.plan.activeTables.table d
    statusSlotBytes s c = [byteOf (slotCount t c), numberField (leadSlot t c), byteOf (4 * slotCount t c)] := by
  rw [statusSlotBytes, h]

theorem statusSlotBytes_of_none (h : (s.channel c).direction = none) : statusSlotBytes s c =
    [Config.freeByte s.freeNext, Config.freeByte (s.freeNext + 1), Config.freeByte (s.freeNext + 2)] := by
  rw [statusSlotBytes, h]

theorem statusDraws_of_some (h : (s.channel c).direction = some d) : statusDraws s c = s :=
  if_neg (by simp [h])

theorem statusDraws_of_none (h : (s.channel c).direction = none) :
    statusDraws s c = { s with freeNext := s.freeNext + 3 } := if_pos (by simp [h])

end Status

/-- Settles O39: CHANNEL STATUS by the channel's direction, TAKE COMPLETION by the queue. -/
theorem channelReportsGiveRecords : Obligations.ChannelReportsGiveRecords := by
  refine fun p s => ⟨fun taken => ⟨fun high => ?_, fun c index => ?_⟩, fun taken => ⟨fun empty => ?_, fun r rest records => ?_⟩⟩
  · rw [exec_channelStatus_taken taken, channelStatus, show channel? (param (s.port p) 0) = none from fin?_eq_none high]
    rfl
  · rw [exec_channelStatus_taken taken, channelStatus_of_some (channel?_eq_some index), channelStatusResult_eq]
    intro x first rest
    have tail : [byteOf x.queue.length] ++ headBytes x.queue ++ x.queue.tail.map Order.tag = rest := by
      refine congrArg (fun bytes => [byteOf x.queue.length] ++ bytes ++ x.queue.tail.map Order.tag) ?_
      cases x.queue <;> rfl
    dsimp only
    rw [tail]
    refine ⟨fun d direction => ?_, fun closed => ⟨Config.freeByte s.freeNext, Config.freeByte (s.freeNext + 1),
      Config.freeByte (s.freeNext + 2), ?_⟩⟩
    · rw [statusSlotBytes_of_some direction, statusDraws_of_some direction]
      rfl
    · rw [statusSlotBytes_of_none closed, statusDraws_of_none closed]
      rfl
  · rw [exec_takeCompletion_taken taken, takeCompletion]
    dsimp only
    rw [empty, PortState.orderRoom, empty]
    rfl
  · rw [exec_takeCompletion_taken taken, takeCompletion]
    dsimp only
    rw [records]
    rfl

end Sys2Proof.Machine
end

section
/-! SUPPORT. The end of every order of a channel, and the close of a channel's record (R79, R108, R120, R124). They
settle O35 and O37. -/

namespace Sys2Proof.Machine

open Sys2Proof

/-! ## States that agree -/

@[simp] theorem State.setChannel_setChannel (s : State) (c : ChannelNo) (x y : Channel) :
    (s.setChannel c x).setChannel c y = s.setChannel c y := by
  simp [State.setChannel]

@[simp] theorem State.setChannel_self (s : State) (c : ChannelNo) : s.setChannel c (s.channel c) = s := by
  simp [State.setChannel, State.channel]

/-! ## Orders that end ABORTED -/

/-- A port with the completion records of the channel's orders ended ABORTED (R127). -/
def PortState.aborted (q : PortState) (s : State) (c : ChannelNo) (l : List Order) : PortState :=
  { q with
    completions := q.completions ++ l.map (endRecord s c .aborted)
    orderCount := q.orderCount - l.length
    events := if l = [] then q.events else q.events ||| Event.completion.word }

theorem PortState.aborted_nil (q : PortState) (s : State) (c : ChannelNo) : q.aborted s c [] = q := by
  simp [PortState.aborted]

theorem PortState.aborted_one (q : PortState) (s : State) (c : ChannelNo) (o : Order) :
    q.aborted s c [o] = q.complete (endRecord s c .aborted o) := by
  simp [PortState.aborted, PortState.complete, PortState.raise]

/-- One order more at the head is one completion more, first (R120). -/
theorem PortState.aborted_cons (q : PortState) (s : State) (c : ChannelNo) (o : Order) (l : List Order) :
    q.aborted s c (o :: l) = (q.complete (endRecord s c .aborted o)).aborted s c l := by
  have count : q.orderCount - (l.length + 1) = q.orderCount - 1 - l.length := by omega
  by_cases last : l = []
  · simp [PortState.aborted, PortState.complete, PortState.raise, last]
  · simp [PortState.aborted, PortState.complete, PortState.raise, last, count, BitVec.or_assoc]

/-- The orders end head first, and only the channel's queue and its owner's port change (R120, R124). -/
theorem abortOrders_eq {c : ChannelNo} {p : Port} (l : List Order) : ∀ {s : State},
    (s.channel c).queue = l → (s.channel c).owner = some p →
    abortOrders c l s = (s.setChannel c { s.channel c with queue := [] }).setPort p
      ((s.port p).aborted s c l) := by
  induction l with
  | nil =>
    intro s queue owner
    have same : { s.channel c with queue := [] } = s.channel c := by rw [← queue]
    rw [abortOrders, PortState.aborted_nil, same, State.setChannel_self, State.setPort_self]
  | cons o l ih =>
    intro s queue owner
    rw [abortOrders, endHead_of_quiet queue owner (by decide),
      ih (by simp [headRecorded]) (by simpa [headRecorded] using owner), PortState.aborted_cons]
    have port : (headRecorded s c p o l .aborted).port p = (s.port p).complete (endRecord s c .aborted o) := by
      simp [headRecorded]
    rw [port]
    have channel : (headRecorded s c p o l .aborted).setChannel c
        { (headRecorded s c p o l .aborted).channel c with queue := [] } =
        (s.setChannel c { s.channel c with queue := [] }).setPort p
          ((s.port p).complete (endRecord s c .aborted o)) := by
      simp only [headRecorded, State.setPort_channel, State.setChannel_channel, if_true]
      exact congrArg (State.setPort · p _) (State.setChannel_setChannel ..)
    rw [channel, State.setPort_setPort]
    rfl

/-- The channel's record replaced by `x` once `l` of its orders have ended ABORTED, the channel out of the waiter
list in which it stood. -/
def ordersAborted (s : State) (c : ChannelNo) (p : Port) (l : List Order) (x : Channel) : State :=
  ((leaveIfWaiting s c).setChannel c x).setPort p ((s.port p).aborted s c l)

section Aborted
variable (s : State) (c : ChannelNo) (p : Port) (l : List Order) (x : Channel)

theorem ordersAborted_channel (d : ChannelNo) :
    (ordersAborted s c p l x).channel d = if d = c then x else s.channel d := by
  simp [ordersAborted]

theorem ordersAborted_port (q : Port) :
    (ordersAborted s c p l x).port q = if q = p then (s.port p).aborted s c l else s.port q := by
  simp [ordersAborted]

theorem ordersAborted_cell (k : CellNo) : (ordersAborted s c p l x).cell k = (leaveIfWaiting s c).cell k := by
  simp [ordersAborted]

theorem ordersAborted_frame : ordersAborted s c p l x =
    { s with channels := (ordersAborted s c p l x).channels, ports := (ordersAborted s c p l x).ports
             cells := (ordersAborted s c p l x).cells } := by
  rw [ordersAborted, leaveIfWaiting_frame]
  rfl

theorem ordersAborted_setChannel (y : Channel) :
    (ordersAborted s c p l x).setChannel c y = ordersAborted s c p l y :=
  congrArg (State.setPort · p _) (State.setChannel_setChannel ..)

end Aborted

theorem endRecord_left (s : State) (c : ChannelNo) (outcome : OrderOutcome) :
    endRecord (leaveIfWaiting s c) c outcome = endRecord s c outcome := by
  funext o
  rw [endRecord, (ChannelStep.leaveIfWaiting s c).framer, endRecord]

theorem abortOrders_left {s : State} {c : ChannelNo} {p : Port} (owner : (s.channel c).owner = some p) :
    abortOrders c (s.channel c).queue (leaveIfWaiting s c) =
      ordersAborted s c p (s.channel c).queue { s.channel c with queue := [] } := by
  rw [abortOrders_eq (p := p) _ (congrArg Channel.queue (leaveIfWaiting_channel s c c))
    ((congrArg Channel.owner (leaveIfWaiting_channel s c c)).trans owner), leaveIfWaiting_channel,
    leaveIfWaiting_port, ordersAborted, PortState.aborted, endRecord_left]
  rfl

theorem headRecorded_left {s : State} {c : ChannelNo} {p : Port} (o : Order) (rest : List Order) :
    headRecorded (leaveIfWaiting s c) c p o rest .aborted =
      ordersAborted s c p [o] { s.channel c with queue := rest } := by
  rw [headRecorded, ordersAborted, PortState.aborted_one, leaveIfWaiting_channel, leaveIfWaiting_port,
    endRecord_left]

/-! ## ABORT -/

theorem abortAllOwn_eq {s : State} {c : ChannelNo} {p : Port} (owner : (s.channel c).owner = some p) :
    let x := s.channel c
    abortAllOwn c s = (.done [byteOf x.queue.length], ordersAborted s c p x.queue
      { x with queue := [], state := if x.state = .halted then .halted else .idle }) := by
  intro x
  rw [abortAllOwn]
  simp only [leaveIfWaiting_channel]
  rw [abortOrders_left owner]
  split_ifs with halted
  · rw [← halted]
  · rw [State.setChannelState, ordersAborted_setChannel, ordersAborted_channel, if_pos rfl]

/-- What ABORT and CLOSE change beside the channel itself. -/
theorem ordersAborted_others (s : State) (c : ChannelNo) (p : Port) (l : List Order) (x : Channel) :
    let t := ordersAborted s c p l x
    t.port p = (s.port p).aborted s c l ∧ (∀ q, q ≠ p → t.port q = s.port q) ∧
    (∀ d, d ≠ c → t.channel d = s.channel d) ∧ (∀ k, (t.cell k).value = (s.cell k).value) ∧
    (∀ k, (t.cell k).waiters = if WaitsOn (s.channel c) k then
      (s.cell k).waiters.filter (· != c) else (s.cell k).waiters) ∧
    t = { s with channels := t.channels, ports := t.ports, cells := t.cells } := by
  refine ⟨?_, fun q hq => ?_, fun d hd => ?_, fun k => ?_, fun k => ?_, ordersAborted_frame ..⟩
  · rw [ordersAborted_port, if_pos rfl]
  · rw [ordersAborted_port, if_neg hq]
  · rw [ordersAborted_channel, if_neg hd]
  · rw [ordersAborted_cell, leaveIfWaiting_value]
  · rw [ordersAborted_cell, leaveIfWaiting_waiters]

theorem abortCurrentOwn_current {s : State} {c : ChannelNo} {p : Port} {o : Order} {rest : List Order}
    (current : (s.channel c).state = .waiting ∨ (s.channel c).state = .active)
    (queue : (s.channel c).queue = o :: rest) (owner : (s.channel c).owner = some p) :
    abortCurrentOwn c s = (.done [1#8],
      becomeCurrent (ordersAborted s c p [o] { s.channel c with queue := rest }) c) := by
  refine (if_pos (by simpa [Channel.hasCurrent] using current)).trans ?_
  rw [endAndAdvance, endHead_of_quiet (p := p) (o := o) (rest := rest) (by simpa using queue)
    (by simpa using owner) (by decide), headRecorded_left]

/-- Both ABORT rows stand for a command whose scope byte names none (log entry 8). -/
theorem takesAbort_unnamed {s : State} {p : Port} {scope : Byte} (taken : engineTakes s p 0x43#8 = true)
    (high : 2 ≤ (param (s.port p) 1).toNat) : takesAbort s p scope = true := by
  simp [takesAbort, taken, high]

/-- Settles O37: the ended orders, and with scope CURRENT the next order becoming current. -/
theorem abortEndsOrders : Obligations.AbortEndsOrders := by
  intro p c s taken index opened own x record others
  have named := channel?_eq_some index
  have acts (scope : param (s.port p) 1 = 0#8) : exec (.abortCurrent p) s =
      .next (complete p (abortCurrentOwn c s).1 (abortCurrentOwn c s).2) := by
    rw [exec_abortCurrent_taken taken scope, takeCommand_taken, onOwnChannel_acts named opened own]
  refine ⟨fun scope calm idle => ?_, fun scope current o rest queue free => ?_,
    fun scope current o next rest k queue gated => ?_, fun scope => ?_, fun high => ?_⟩
  · rw [acts scope, abortCurrentOwn, if_neg (show ¬(s.channel c).hasCurrent = true by
      simpa [Channel.hasCurrent] using ⟨calm, idle⟩)]
    rfl
  · rw [acts scope, abortCurrentOwn_current current queue own]
    have head : ((ordersAborted s c p [o] { x with queue := rest }).channel c) = { x with queue := rest } := by
      rw [ordersAborted_channel, if_pos rfl]
    have becomes : becomeCurrent (ordersAborted s c p [o] { x with queue := rest }) c =
        ordersAborted s c p [o] { x with queue := rest, state := if rest = [] then .idle else .active } := by
      cases rest with
      | nil =>
        rw [becomeCurrent_of_empty (congrArg Channel.queue head), State.setChannelState, head,
          ordersAborted_setChannel]
        rfl
      | cons next more =>
        rw [becomeCurrent_of_ungated (congrArg Channel.queue head) free, State.setChannelState, head,
          ordersAborted_setChannel]
        rfl
    refine ⟨_, rfl, ?_, ?_⟩
    · rw [becomes]
      exact ordersAborted_others ..
    · rw [becomes, ordersAborted_channel, if_pos rfl]
  · have head : ((ordersAborted s c p [o] { x with queue := next :: rest }).channel c) =
        { x with queue := next :: rest } := by rw [ordersAborted_channel, if_pos rfl]
    refine ⟨ordersAborted s c p [o] { x with queue := next :: rest }, ordersAborted_others .., ?_⟩
    rw [acts scope, abortCurrentOwn_current current queue own,
      becomeCurrent_of_gated (congrArg Channel.queue head) gated, waitingAt, head]
    rfl
  · refine ⟨ordersAborted s c p x.queue
      { x with queue := [], state := if x.state = .halted then .halted else .idle }, ?_,
      ordersAborted_others .., ?_⟩
    · rw [exec_abortAll_taken taken scope, takeCommand_taken, onOwnChannel_acts named opened own,
        abortAllOwn_eq own]
      rfl
    · rw [ordersAborted_channel, if_pos rfl]
  have unnamed (scope : Byte) (below : scope.toNat < 2) : (param (s.port p) 1 == scope) = false := by
    refine beq_eq_false_iff_ne.2 fun same => ?_
    rw [same] at high
    omega
  refine ⟨?_, ?_⟩
  · change execAbortCurrent p s = _
    rw [execAbortCurrent, takesAbort_unnamed taken high, unnamed 0#8 (by decide), takeCommand_taken,
      onOwnChannel_invalid]
    rfl
  · change execAbortAll p s = _
    rw [execAbortAll, takesAbort_unnamed taken high, unnamed 1#8 (by decide), takeCommand_taken,
      onOwnChannel_invalid]
    rfl

/-! ## The close of a channel's record (R79, R108, R120) -/

/-- The slot plan after the close of a channel (R79): while an exchange is in flight the channel awaits its end,
else the shadow loses the channel. -/
def SlotPlan.closed (x : SlotPlan) (flight : Bool) (c : ChannelNo) : SlotPlan :=
  if flight then { x with pendingClear := x.pendingClear.set c.val true }
  else x.setShadow ⟨keepEntries (· != c) x.shadowTables.out, keepEntries (· != c) x.shadowTables.inn⟩

theorem closeInPlan_eq (s : State) (c : ChannelNo) :
    closeInPlan s c = { s with plan := s.plan.closed s.exchange.inFlight c } := by
  unfold closeInPlan SlotPlan.closed
  split <;> rfl

/-- An entry of a slot table that names the channel is unassigned by its close, the others stand. -/
theorem keepEntries_ne_getElem (t : SlotTable) (c : ChannelNo) (i : SlotNo) :
    (keepEntries (· != c) t)[i.val] = if t[i.val] = some c then none else t[i.val] := by
  rw [keepEntries_getElem]
  cases t[i.val] with
  | none => simp
  | some d =>
    by_cases same : d = c
    · simp [same]
    · simp [same]

section Closed
variable (x : SlotPlan) (c : ChannelNo)

theorem SlotPlan.closed_flight :
    x.closed true c = { x with pendingClear := x.pendingClear.set c.val true } := rfl

theorem SlotPlan.setBank_pendingClear (b : Bank) (t : BankTables) :
    (x.setBank b t).pendingClear = x.pendingClear := by
  cases b <;> rfl

/-- Without an exchange in flight the shadow bank alone is changed, and there the channel's entries alone. -/
theorem SlotPlan.closed_calm :
    (x.closed false c).active = x.active ∧ (x.closed false c).receive = x.receive ∧
    (x.closed false c).retained = x.retained ∧ (x.closed false c).pendingClear = x.pendingClear ∧
    (x.closed false c).activeTables = x.activeTables ∧ ∀ (d : Direction) (i : SlotNo),
      ((x.closed false c).shadowTables.table d)[i.val] =
        if (x.shadowTables.table d)[i.val] = some c then none else (x.shadowTables.table d)[i.val] := by
  have shadow : x.closed false c = x.setShadow
      ⟨keepEntries (· != c) x.shadowTables.out, keepEntries (· != c) x.shadowTables.inn⟩ := rfl
  obtain ⟨active, receive, retained⟩ := x.setBank_frame x.active.other
    ⟨keepEntries (· != c) x.shadowTables.out, keepEntries (· != c) x.shadowTables.inn⟩
  rw [shadow]
  refine ⟨active, receive, retained, x.setBank_pendingClear .., x.setShadow_activeTables _, fun d i => ?_⟩
  rw [x.setShadow_shadowTables]
  cases d <;> exact keepEntries_ne_getElem ..

end Closed

section CloseRecord
variable (s : State) (c : ChannelNo)

theorem unbindArea_area (a : Option AreaNo) (m : AreaNo) : (unbindArea s a).area m =
    if a = some m then { s.area m with state := .free, channel := none } else s.area m := by
  cases a with
  | none => rfl
  | some n =>
    rw [unbindArea, State.setArea_area]
    by_cases same : m = n
    · simp [same]
    · simp [same, Ne.symm same]

theorem closeRecord_eq : closeRecord s c =
    { unbindArea (leaveIfWaiting s c) (s.channel c).area with
      plan := s.plan.closed s.exchange.inFlight c }.setChannel c Channel.closed := by
  have bound : (unbindArea (leaveIfWaiting s c) (s.channel c).area).plan = s.plan ∧
      (unbindArea (leaveIfWaiting s c) (s.channel c).area).exchange = s.exchange := by
    cases (s.channel c).area <;>
      exact ⟨(ChannelStep.leaveIfWaiting s c).plan, (ChannelStep.leaveIfWaiting s c).exchange⟩
  have flight : (unbindArea (leaveIfWaiting s c) (s.channel c).area).exchange.inFlight = s.exchange.inFlight :=
    congrArg Exchange.inFlight bound.2
  simp only [closeRecord, closeInPlan_eq, bound.1, flight]

theorem closeRecord_plan : (closeRecord s c).plan = s.plan.closed s.exchange.inFlight c := by
  rw [closeRecord_eq]
  rfl

theorem closeRecord_area (m : AreaNo) : (closeRecord s c).area m =
    if (s.channel c).area = some m then { s.area m with state := .free, channel := none } else s.area m := by
  have unbound := unbindArea_area (leaveIfWaiting s c) (s.channel c).area m
  rw [(ChannelStep.leaveIfWaiting s c).area] at unbound
  rw [closeRecord_eq]
  exact unbound

theorem closeRecord_frame : closeRecord s c = { s with
    channels := (closeRecord s c).channels, areas := (closeRecord s c).areas
    cells := (closeRecord s c).cells, plan := (closeRecord s c).plan } := by
  rw [closeRecord_eq, leaveIfWaiting_frame]
  cases (s.channel c).area <;> rfl

end CloseRecord

/-! ## CLOSE -/

theorem namesChannel_iff (t : SlotTable) (c : ChannelNo) :
    namesChannel t c = true ↔ ∃ i : SlotNo, t[i.val] = some c := by
  simp [namesChannel]

theorem BankTables.namesChannel_iff (b : BankTables) (c : ChannelNo) :
    b.namesChannel c = true ↔ ∃ (d : Direction) (i : SlotNo), (b.table d)[i.val] = some c := by
  rw [BankTables.namesChannel, Bool.or_eq_true, Machine.namesChannel_iff, Machine.namesChannel_iff]
  constructor
  · rintro (⟨i, out⟩ | ⟨i, inn⟩)
    · exact ⟨.out, i, out⟩
    · exact ⟨.inn, i, inn⟩
  · rintro ⟨d, i, named⟩
    cases d with
    | out => exact .inl ⟨i, named⟩
    | inn => exact .inr ⟨i, named⟩

theorem closeBusy_iff (s : State) (c : ChannelNo) : closeBusy s c = true ↔
    (s.exchange.state ≠ .idle ∨ s.exchange.adopt ≠ none) ∧
      ∃ (d : Direction) (i : SlotNo), (s.plan.shadowTables.table d)[i.val] = some c := by
  rw [← editBusy_iff, ← BankTables.namesChannel_iff, closeBusy, Bool.and_eq_true, editBusy]

/-- The channel of a CLOSE once its orders are ended: nothing of it waits any longer (R120). -/
theorem closeChannelOp_eq {s : State} {c : ChannelNo} {p : Port} (owner : (s.channel c).owner = some p) :
    closeChannelOp s c =
      closeRecord (ordersAborted s c p (s.channel c).queue { s.channel c with queue := [] }) c := by
  rw [closeChannelOp]
  simp only [leaveIfWaiting_channel]
  rw [abortOrders_left owner]

/-- Settles O35: the ended orders, then the close of the record. -/
theorem closeEndsEveryOrder : Obligations.CloseEndsEveryOrder := by
  intro p c n s taken index opened own area x flight named waitsOn
  have acts : exec (.closeChannel p) s = .next (complete p (closeOwn c s).1 (closeOwn c s).2) := by
    rw [exec_closeChannel_taken taken, takeCommand_taken, onOwnChannel_acts (channel?_eq_some index) opened own]
  rw [acts]
  refine ⟨fun busy bank => ?_, fun calm => ?_⟩
  · rw [closeOwn, if_pos ((closeBusy_iff s c).2 ⟨busy, bank⟩)]
    rfl
  rw [closeOwn, if_neg (mt (closeBusy_iff s c).1 calm), closeChannelOp_eq own]
  obtain ⟨port, ports, channels, value, waiters, frame⟩ :=
    ordersAborted_others s c p x.queue { x with queue := [] }
  generalize reached : ordersAborted s c p x.queue { x with queue := [] } = u at port ports channels value waiters frame
  have channel : u.channel c = { x with queue := [] } := by
    rw [← reached, ordersAborted_channel, if_pos rfl]
  have left : leaveIfWaiting u c = u := leaveIfWaiting_of_empty (congrArg Channel.queue channel)
  have plan : u.plan = s.plan := by rw [frame]
  have exchange : u.exchange = s.exchange := by rw [frame]
  have held : (u.channel c).area = some n := (congrArg Channel.area channel).trans area
  have areas (m : AreaNo) : u.area m = s.area m := by
    rw [frame]
    rfl
  have cell (k : CellNo) : (closeRecord u c).cell k = u.cell k := by rw [closeRecord_cell, left]
  have waits_iff (k : CellNo) : waitsOn k ↔ WaitsOn x k := by
    refine and_congr Iff.rfl ?_
    rw [Channel.headGate]
    cases x.queue <;> simp
  refine ⟨closeRecord u c, rfl, ?_, fun d hd => ?_, ?_, fun m hm => ?_, ?_, fun q hq => ?_, fun k => ?_,
    fun k => ⟨fun waits => ?_, fun free => ?_⟩, fun moving => ?_, fun still => ?_, ?_⟩
  · rw [closeRecord_channel, if_pos rfl]
    rfl
  · rw [closeRecord_channel, if_neg hd, channels d hd]
  · rw [closeRecord_area, if_pos held, areas]
  · rw [closeRecord_area, if_neg (by rw [held]; exact fun e => hm (Option.some_inj.1 e).symm), areas]
  · rw [closeRecord_port, port]
    rfl
  · rw [closeRecord_port, ports q hq]
  · rw [cell, value]
  · rw [cell, waiters, if_pos ((waits_iff k).1 waits)]
  · rw [cell, ← reached, ordersAborted_cell, leaveIfWaiting_cell, if_neg (mt (waits_iff k).2 free)]
  · rw [closeRecord_plan, plan, exchange, show s.exchange.inFlight = true from bne_iff_ne.2 moving]
    rfl
  · rw [closeRecord_plan, plan, exchange,
      show s.exchange.inFlight = false from bne_eq_false_iff_eq.2 (not_not.1 still)]
    exact s.plan.closed_calm c
  · rw [closeRecord_frame, frame]

end Sys2Proof.Machine
end

section
/-! SUPPORT. The cell commands, the watches and SETTINGS (R143 to R147, R153, R154, R165, R166). They settle O41, O43
and O44. -/

namespace Sys2Proof.Machine

open Sys2Proof

/-! ## The words of the cells -/

theorem oneBit_eq (b : Nat) : oneBit b = BitVec.ofNat 16 (2 ^ b) := by
  apply BitVec.eq_of_toNat_eq
  simp [oneBit, Nat.shiftLeft_eq]

theorem oneBit_getLsbD (k l : CellNo) : (oneBit k.val).getLsbD l.val = (l == k) := by
  have low : l.val < 16 := l.isLt
  rw [oneBit, BitVec.getLsbD_shiftLeft]
  by_cases same : l = k
  · simp [same]
  · have differ : l.val ≠ k.val := fun e => same (Fin.ext e)
    by_cases below : l.val < k.val
    · simp [same, below]
    · have apart : l.val - k.val ≠ 0 := by omega
      simp [same, BitVec.getLsbD_one, apart]

theorem add_eq_ofNat (x v : Word) : x + v = BitVec.ofNat 16 (x.toNat + v.toNat) := by
  apply BitVec.eq_of_toNat_eq
  simp

theorem taken_eq_ofNat (x : Word) : (if x = 0#16 then x else x - 1#16) = BitVec.ofNat 16 (x.toNat - 1) := by
  apply BitVec.eq_of_toNat_eq
  split
  · simp_all
  · have positive : 1 ≤ x.toNat := by bv_omega
    rw [BitVec.toNat_ofNat]
    bv_omega

/-! ## The answers of the cell commands (R144, R175) -/

/-- The result of a cell command: old value, new value, takes, ZERO and CARRY. -/
abbrev cellAnswer (old new : Word) (takes : Nat) (carry : Prop) [Decidable carry] : List Byte :=
  [lowByte old, highByte old, lowByte new, highByte new, byteOf takes,
    byteOf ((if new = 0#16 then 1 else 0) + (if carry then 2 else 0))]

theorem cellFlags_eq {new : Word} {b : Bool} {carry : Prop} [Decidable carry] (h : b = true ↔ carry) :
    cellFlags (new == 0#16) b = byteOf ((if new = 0#16 then 1 else 0) + (if carry then 2 else 0)) := by
  by_cases zero : new = 0#16
  · by_cases set : carry
    · simp [cellFlags, zero, set, h.2 set, byteOf]
    · simp [cellFlags, zero, set, mt h.1 set, byteOf]
  · by_cases set : carry
    · simp [cellFlags, zero, set, h.2 set, byteOf]
    · simp [cellFlags, zero, set, mt h.1 set, byteOf]

theorem cellResult_eq {old new : Word} {takes : Nat} {b : Bool} {carry : Prop} [Decidable carry]
    (h : b = true ↔ carry) : cellResult old new takes b = cellAnswer old new takes carry := by
  rw [cellResult, cellFlags_eq h]
  rfl

theorem cellFlags_zero (w : Word) : cellFlags (w == 0#16) false = if w = 0#16 then 1#8 else 0#8 := by
  by_cases zero : w = 0#16
  · simp [cellFlags, zero]
  · simp [cellFlags, zero]

section CellRows
variable {i : Instr} {p : Port} {s : State} {k : CellNo} {act : CellNo → State → Reply × State}
  {value : Word → Word} {carries : Word → Bool} {new : Word} {carry : Prop} [Decidable carry]

theorem onCell_unnamed (high : 15 < (param (s.port p) 0).toNat) : onCell p act s = (.refuse .badParam, s) := by
  rw [onCell, show cell? (param (s.port p) 0) = none from fin?_eq_none high]

theorem onCell_named (index : (param (s.port p) 0).toNat = k.val) : onCell p act s = act k s := by
  rw [onCell, show cell? (param (s.port p) 0) = some k from fin?_eq_some index]

theorem raising_row (runs : exec i s = takeCommand true p (onCell p (raisingCommand value carries)) s)
    (index : (param (s.port p) 0).toNat = k.val) (writes : value (s.cell k).value = new)
    (carried : carries (s.cell k).value = true ↔ carry) :
    exec i s = doneWith p (cellAnswer (s.cell k).value ((gateRule (s.writeCell k new) k).1.cell k).value
      (gateRule (s.writeCell k new) k).2 carry) (gateRule (s.writeCell k new) k).1 := by
  rw [runs, takeCommand_taken, onCell_named index, raisingCommand, writes]
  dsimp only
  rw [cellResult_eq carried]
  rfl

theorem plain_row (runs : exec i s = takeCommand true p (onCell p (plainCommand value carries)) s)
    (index : (param (s.port p) 0).toNat = k.val) (writes : value (s.cell k).value = new)
    (carried : carries (s.cell k).value = true ↔ carry) :
    exec i s = doneWith p (cellAnswer (s.cell k).value new 0 carry) (s.writeCell k new) := by
  rw [runs, takeCommand_taken, onCell_named index, plainCommand, writes]
  dsimp only
  rw [State.writeCell_cell, cellResult_eq carried]
  rfl

end CellRows

section BitRows
variable {p : Port} {s : State} {act : CellNo → Nat → State → Reply × State}

theorem onCellBit_named {b : Nat} (bit : (param (s.port p) 1).toNat = b) (low : b ≤ 15) :
    onCellBit p act s = onCell p (fun k => act k b) s := by
  unfold onCellBit onCell
  split
  · dsimp only
    rw [bit, if_pos low]
  · rfl

theorem onCellBit_unnamed (high : 15 < (param (s.port p) 1).toNat) :
    onCellBit p act s = (.refuse .badParam, s) := by
  unfold onCellBit onCell
  split
  · exact if_neg (not_le.2 high)
  · rfl

end BitRows

/-! ## The rows -/

/-- The seven cell commands with their codes (R144). -/
def cellRows (p : Port) : List (Instr × Byte) :=
  [(.cellRead p, 0x50#8), (.cellSet p, 0x51#8), (.cellExchange p, 0x52#8), (.cellAdd p, 0x53#8),
    (.cellTake p, 0x54#8), (.cellTestClear p, 0x55#8), (.cellSetBit p, 0x56#8)]

section Rows
variable {p : Port} {s : State}

theorem exec_cellRead_taken (taken : engineTakes s p 0x50#8 = true) : exec (.cellRead p) s =
    takeCommand true p (onCell p (plainCommand id fun _ => false)) s := by
  change execCellRead p s = _
  rw [execCellRead, taken]

theorem exec_cellSet_taken (taken : engineTakes s p 0x51#8 = true) : exec (.cellSet p) s =
    takeCommand true p (onCell p (raisingCommand (fun _ => cellParam p s) fun _ => false)) s := by
  change execCellSet p s = _
  rw [execCellSet, taken]

theorem exec_cellExchange_taken (taken : engineTakes s p 0x52#8 = true) : exec (.cellExchange p) s =
    takeCommand true p (onCell p (raisingCommand (fun _ => cellParam p s) fun old => old != 0#16)) s := by
  change execCellExchange p s = _
  rw [execCellExchange, taken]

theorem exec_cellAdd_taken (taken : engineTakes s p 0x53#8 = true) : exec (.cellAdd p) s =
    takeCommand true p (onCell p (raisingCommand (fun old => old + cellParam p s)
      fun old => 65536 ≤ old.toNat + (cellParam p s).toNat)) s := by
  change execCellAdd p s = _
  rw [execCellAdd, taken]

theorem exec_cellTake_taken (taken : engineTakes s p 0x54#8 = true) : exec (.cellTake p) s =
    takeCommand true p (onCell p (plainCommand (fun old => if old = 0#16 then old else old - 1#16)
      fun old => old == 0#16)) s := by
  change execCellTake p s = _
  rw [execCellTake, taken]

theorem exec_cellTestClear_taken (taken : engineTakes s p 0x55#8 = true) : exec (.cellTestClear p) s =
    takeCommand true p (onCellBit p fun k b =>
      plainCommand (fun old => old &&& ~~~oneBit b) (fun old => old.getLsbD b) k) s := by
  change execCellTestClear p s = _
  rw [execCellTestClear, taken]

theorem exec_cellSetBit_taken (taken : engineTakes s p 0x56#8 = true) : exec (.cellSetBit p) s =
    takeCommand true p (onCellBit p fun k b =>
      raisingCommand (fun old => old ||| oneBit b) (fun old => old.getLsbD b) k) s := by
  change execCellSetBit p s = _
  rw [execCellSetBit, taken]

/-- Each cell command acts on the cell that its parameter block names (R144). -/
theorem exec_cellRow_taken {r : Instr × Byte} (hr : r ∈ cellRows p) (taken : engineTakes s p r.2 = true) :
    ∃ act, exec r.1 s = takeCommand true p (onCell p act) s := by
  simp only [cellRows, List.mem_cons, List.not_mem_nil, or_false] at hr
  rcases hr with rfl | rfl | rfl | rfl | rfl | rfl | rfl
  · exact ⟨_, exec_cellRead_taken taken⟩
  · exact ⟨_, exec_cellSet_taken taken⟩
  · exact ⟨_, exec_cellExchange_taken taken⟩
  · exact ⟨_, exec_cellAdd_taken taken⟩
  · exact ⟨_, exec_cellTake_taken taken⟩
  · exact ⟨_, exec_cellTestClear_taken taken⟩
  · exact ⟨_, exec_cellSetBit_taken taken⟩

/-- The two commands on a bit refuse a bit number above 15 (R147). -/
theorem exec_bitRow_taken {r : Instr × Byte} (hr : r ∈ cellRows p) (bit : r.2 = 0x55#8 ∨ r.2 = 0x56#8)
    (taken : engineTakes s p r.2 = true) : ∃ act, exec r.1 s = takeCommand true p (onCellBit p act) s := by
  simp only [cellRows, List.mem_cons, List.not_mem_nil, or_false] at hr
  rcases hr with rfl | rfl | rfl | rfl | rfl | rfl | rfl
  · exact absurd bit (by simp)
  · exact absurd bit (by simp)
  · exact absurd bit (by simp)
  · exact absurd bit (by simp)
  · exact absurd bit (by simp)
  · exact ⟨_, exec_cellTestClear_taken taken⟩
  · exact ⟨_, exec_cellSetBit_taken taken⟩

end Rows

/-- Settles O41: each row by the value it writes and the carry it gives. -/
theorem cellCommandsAnswer : Obligations.CellCommandsAnswer := by
  intro p s q v rows
  refine ⟨fun r hr taken high => ?_, fun r hr bit taken high => ?_, ?cells⟩
  · obtain ⟨act, runs⟩ := exec_cellRow_taken hr taken
    rw [runs, takeCommand_taken, onCell_unnamed high]
    rfl
  · obtain ⟨act, runs⟩ := exec_bitRow_taken hr bit taken
    rw [runs, takeCommand_taken, onCellBit_unnamed high]
    rfl
  case cells =>
    intro k index old answer plain raising
    refine ⟨fun taken => ?_, fun taken => ?_, fun taken => ?_, fun taken => ?_, fun taken => ?_,
      fun b bit low => ⟨fun taken => ?_, fun taken => ?_⟩⟩
    · have row := plain_row (carry := False) (exec_cellRead_taken taken) index rfl (by simp)
      rw [show s.writeCell k (id (s.cell k).value) = s from writeCell_same rfl] at row
      exact row
    · exact raising_row (exec_cellSet_taken taken) index rfl (by simp)
    · exact raising_row (exec_cellExchange_taken taken) index rfl (by simp [old])
    · exact raising_row (exec_cellAdd_taken taken) index (add_eq_ofNat ..) decide_eq_true_iff
    · exact plain_row (exec_cellTake_taken taken) index (taken_eq_ofNat _) (by simp [old])
    · have runs : exec (.cellTestClear p) s = takeCommand true p
          (onCell p (plainCommand (fun x => x &&& ~~~oneBit b) fun x => x.getLsbD b)) s := by
        rw [exec_cellTestClear_taken taken, takeCommand_taken, onCellBit_named bit low, takeCommand_taken]
      exact plain_row runs index (by rw [oneBit_eq]) Iff.rfl
    · have runs : exec (.cellSetBit p) s = takeCommand true p
          (onCell p (raisingCommand (fun x => x ||| oneBit b) fun x => x.getLsbD b)) s := by
        rw [exec_cellSetBit_taken taken, takeCommand_taken, onCellBit_named bit low, takeCommand_taken]
      exact raising_row runs index (by rw [oneBit_eq]) Iff.rfl

/-! ## Watches (R153, R154) -/

theorem recordChange_unwatched {q : PortState} {k : CellNo} (h : q.watch.getLsbD k.val = false) :
    q.recordChange k = q := if_neg (by rw [h]; decide)

theorem recordChange_watched {q : PortState} {k : CellNo} (h : q.watch.getLsbD k.val = true) :
    q.recordChange k = { q with changed := q.changed ||| oneBit k.val }.raise .cell := if_pos h

/-- Settles O43: a changed value is recorded port by port. -/
theorem watchesRecordChanges : Obligations.WatchesRecordChanges := by
  refine ⟨fun s k v same => writeCell_same same, fun s k v differs => ?_, fun p s => ⟨fun taken => ?_, fun taken => ?_⟩⟩
  · have port (p : Port) : (s.writeCell k v).port p = (s.port p).recordChange k := by
      rw [writeCell_port, if_neg differs]
    refine ⟨State.writeCell_cell s k v, (CellStep.writeCell k s v).others, fun p idle => ?_, fun p watched => ?_, ?_⟩
    · rw [port, recordChange_unwatched idle]
    · rw [port, recordChange_watched watched]
      refine ⟨fun l => ?_, fun e => PortState.raise_holds _ .cell e, rfl⟩
      rw [← oneBit_getLsbD]
      exact BitVec.getLsbD_or ..
    · rw [writeCell_changed differs]
      rfl
  · change execCellWatch p s = _
    rw [execCellWatch, taken, takeCommand_taken, cellWatch]
    dsimp only
    rw [cellResult, cellFlags_zero]
    rfl
  · change execCellsChanged p s = _
    rw [execCellsChanged, taken, takeCommand_taken, cellsChanged]
    dsimp only
    rw [cellFlags_zero]
    rfl

/-! ## SETTINGS (R165, R166) -/

theorem takesSettings_own {s : State} {p : Port} {operation : Byte} (taken : engineTakes s p 0x60#8 = true)
    (h : param (s.port p) 0 = operation ∨ 2 ≤ (param (s.port p) 0).toNat) :
    takesSettings s p operation = true := by
  simpa [takesSettings, taken] using h

theorem exec_settingsRead_taken {s : State} {p : Port} (taken : engineTakes s p 0x60#8 = true)
    (h : param (s.port p) 0 = 0#8 ∨ 2 ≤ (param (s.port p) 0).toNat) :
    exec (.settingsRead p) s = .next (complete p (settingsRead p s).1 (settingsRead p s).2) := by
  change execSettingsRead p s = _
  rw [execSettingsRead, takesSettings_own taken h, takeCommand_taken]

theorem exec_settingsWrite_taken {s : State} {p : Port} (taken : engineTakes s p 0x60#8 = true)
    (h : param (s.port p) 0 = 1#8 ∨ 2 ≤ (param (s.port p) 0).toNat) :
    exec (.settingsWrite p) s = .next (complete p (settingsWrite p s).1 (settingsWrite p s).2) := by
  change execSettingsWrite p s = _
  rw [execSettingsWrite, takesSettings_own taken h, takeCommand_taken]

theorem settingsWrite_down {s : State} {p : Port} (write : param (s.port p) 0 = 1#8)
    (down : s.link.state = .down) : settingsWrite p s =
      match settingsOf (s.port p) with
      | none => (.refuse .badParam, s)
      | some x => (.done (settingsResult x), replaceSettings x s) :=
  (if_neg (not_not.2 write)).trans (if_neg (not_not.2 down))

/-- A parameter block with a setting out of range names no settings (R165, R174). -/
theorem settingsOf_eq_none {q : PortState}
    (wrong : 1 < (param q 1).toNat ∨ 2 < (param q 2).toNat ∨ param q 3 = 0#8 ∨ 3 < (param q 3).toNat) :
    settingsOf q = none := by
  have below (b : Byte) (n : Byte) (h : n.toNat < b.toNat) (m : Byte) (hm : m.toNat ≤ n.toNat) : b ≠ m := by
    rintro rfl
    omega
  rcases wrong with mode | filter | zero | high
  · have none : mode? (param q 1) = none := by
      rw [mode?, if_neg (below _ 1#8 mode 0#8 (by decide)), if_neg (below _ 1#8 mode 1#8 (by decide))]
    rw [settingsOf, none]
  · have none : filter? (param q 2) = none := by
      rw [filter?, if_neg (below _ 2#8 filter 0#8 (by decide)), if_neg (below _ 2#8 filter 1#8 (by decide)),
        if_neg (below _ 2#8 filter 2#8 (by decide))]
    rw [settingsOf, none]
    split <;> simp_all
  · rw [settingsOf, zero]
    split <;> simp_all [port?]
  · have none : port? (param q 3) = none := by
      rw [port?, if_neg (below _ 3#8 high 1#8 (by decide)), if_neg (below _ 3#8 high 2#8 (by decide)),
        if_neg (below _ 3#8 high 3#8 (by decide))]
    rw [settingsOf, none]
    split <;> simp_all

/-- The settings replaced, and the reports dropped where the service port changes (R165). -/
def settingsPut (x : Settings) (s : State) : State :=
  { s with
    settings := x
    service := if s.settings.servicePort = x.servicePort then s.service
      else { s.service with reports := [], overflow := false } }

/-- The settings replaced while the link is in DOWN (R165, R166). -/
theorem replaceSettings_down {s : State} (down : s.link.state = .down) (x : Settings) :
    let t := settingsPut x s
    replaceSettings x s =
      if s.settings.autoAnswer = false ∧ x.autoAnswer = true ∧ s.link.wakeHeard = true then
        { t with
          link := { t.link with state := .answering, toneTimer := some .answer }
          framer := { t.framer with line := .answerTone } }
      else t := by
  intro t
  have put : (if s.settings.servicePort ≠ x.servicePort then clearReports { s with settings := x }
      else { s with settings := x }) = t := by
    by_cases same : s.settings.servicePort = x.servicePort
    · rw [if_neg (not_not.2 same), show t = settingsPut x s from rfl, settingsPut, if_pos same]
    · rw [if_pos same, show t = settingsPut x s from rfl, settingsPut, if_neg same]
      rfl
  rw [replaceSettings]
  dsimp only
  rw [put]
  by_cases turned : s.settings.autoAnswer = false ∧ x.autoAnswer = true
  · obtain ⟨off, on⟩ := turned
    have willing : willAnswer t = true := by
      rw [willAnswer, show t.settings.autoAnswer = true from on, Bool.true_or]
    rw [if_pos (by simp [off, on]), answerIfWilling]
    refine if_congr ?_ rfl rfl
    rw [willing, show t.link = s.link from rfl]
    simp [down, off, on]
  · rw [if_neg (by simpa using turned), if_neg (fun h => turned ⟨h.1, h.2.1⟩)]

/-- Settles O44: the operation byte, then for a WRITE the link state and the settings named. -/
theorem settingsReadAndWrite : Obligations.SettingsReadAndWrite := by
  intro p s taken q bytes
  have high_ne {b : Byte} (high : 2 ≤ (param q 0).toNat) (hb : b.toNat < 2) : param q 0 ≠ b := by
    intro same
    rw [same] at high
    omega
  refine ⟨fun read => ?_, fun high => ⟨?_, ?_⟩, fun write busy => ?_, fun write down wrong => ?_,
    ?replaced⟩
  · rw [exec_settingsRead_taken taken (.inl read), settingsRead, if_neg (not_not.2 read)]
    rfl
  · rw [exec_settingsRead_taken taken (.inr high), settingsRead, if_pos (high_ne high (by decide))]
    rfl
  · rw [exec_settingsWrite_taken taken (.inr high), settingsWrite, if_pos (high_ne high (by decide))]
    rfl
  · rw [exec_settingsWrite_taken taken (.inl write), settingsWrite, if_neg (not_not.2 write), if_pos busy]
    rfl
  · rw [exec_settingsWrite_taken taken (.inl write), settingsWrite_down write down, settingsOf_eq_none wrong]
    rfl
  case replaced =>
    intro m f r write down hm hf hr x t
    have named : settingsOf (s.port p) = some x := by
      rw [settingsOf, hm, hf, hr]
      rfl
    rw [exec_settingsWrite_taken taken (.inl write), settingsWrite_down write down, named]
    dsimp only
    rw [replaceSettings_down down]
    rfl

end Sys2Proof.Machine
end

section
/-! SUPPORT. PORT RESET: the close of the port's channels, the release of its areas and of its claim (R79, R113, R121,
R148, R169). They settle O45. -/

namespace Sys2Proof.Machine

open Sys2Proof

/-! ## The port's channels closed, one after another (R121) -/

/-- The channel is open and the port's. -/
abbrev OwnedBy (p : Port) (s : State) (c : ChannelNo) : Prop :=
  (s.channel c).state ≠ .closed ∧ (s.channel c).owner = some p

/-- One channel of the walk over a port's channels. -/
def closeIfOwned (p : Port) (s : State) (c : ChannelNo) : State :=
  if (s.channel c).isOpen && (s.channel c).owner == some p then discardChannel s c else s

theorem closeIfOwned_own {p : Port} {s : State} {c : ChannelNo} (own : OwnedBy p s c) :
    closeIfOwned p s c = closeRecord (s.setPort p { s.port p with
      orderCount := (s.port p).orderCount - (s.channel c).queue.length }) c := by
  have owner := own.2
  refine (if_pos (by simpa [Channel.isOpen] using own)).trans ?_
  rw [discardChannel, owner]

theorem closeIfOwned_other {p : Port} {s : State} {c : ChannelNo} (other : ¬OwnedBy p s c) :
    closeIfOwned p s c = s := if_neg (by simpa [Channel.isOpen] using other)

/-- What the close of those of the port's channels that the list names has done. -/
structure ChannelsReleased (p : Port) (l : List ChannelNo) (s t : State) : Prop where
  side : t = { s with areas := t.areas, channels := t.channels, cells := t.cells, ports := t.ports, plan := t.plan }
  holders : ∀ n, (t.area n).holder = (s.area n).holder
  areas : ∀ n, (∀ c, OwnedBy p s c → (s.channel c).area ≠ some n) → t.area n = s.area n
  port : ∃ n, t.port p = { s.port p with orderCount := n }
  ports : ∀ q, q ≠ p → t.port q = s.port q
  values : ∀ k, (t.cell k).value = (s.cell k).value
  waiters : ∀ k, (t.cell k).waiters = (s.cell k).waiters.filter fun c =>
    !decide (c ∈ l ∧ (s.channel c).owner = some p ∧ WaitsOn (s.channel c) k)
  banks : t.plan.active = s.plan.active ∧ t.plan.activeTables = s.plan.activeTables ∧
    t.plan.receive = s.plan.receive ∧ t.plan.retained = s.plan.retained
  flight : s.exchange.inFlight = true → t.plan.shadowTables = s.plan.shadowTables ∧
    ∀ c, t.plan.pendingClear[c.val] = true ↔ s.plan.pendingClear[c.val] = true ∨ (c ∈ l ∧ OwnedBy p s c)
  calm : s.exchange.inFlight = false → t.plan.pendingClear = s.plan.pendingClear ∧
    ∀ (d : Direction) (i : SlotNo), (t.plan.shadowTables.table d)[i.val] =
      if ∃ c ∈ l, OwnedBy p s c ∧ (s.plan.shadowTables.table d)[i.val] = some c then none
      else (s.plan.shadowTables.table d)[i.val]

theorem ChannelsReleased.nil (p : Port) (s : State) : ChannelsReleased p [] s s where
  side := rfl
  holders := fun _ => rfl
  areas := fun _ _ => rfl
  port := ⟨_, rfl⟩
  ports := fun _ _ => rfl
  values := fun _ => rfl
  waiters := fun k => by simp
  banks := ⟨rfl, rfl, rfl, rfl⟩
  flight := fun _ => ⟨rfl, fun c => by simp⟩
  calm := fun _ => ⟨rfl, fun d i => by simp⟩

/-- A channel that is not the port's is passed over. -/
theorem ChannelsReleased.skip {p : Port} {l : List ChannelNo} {s t : State} {c : ChannelNo}
    (other : ¬OwnedBy p s c) (h : ChannelsReleased p l s t) : ChannelsReleased p (c :: l) s t where
  side := h.side
  holders := h.holders
  areas := h.areas
  port := h.port
  ports := h.ports
  values := h.values
  waiters := fun k => by
    rw [h.waiters k]
    refine List.filter_congr fun d _ => ?_
    have same : (d ∈ c :: l ∧ (s.channel d).owner = some p ∧ WaitsOn (s.channel d) k) ↔
        (d ∈ l ∧ (s.channel d).owner = some p ∧ WaitsOn (s.channel d) k) := by
      refine ⟨fun ⟨listed, owner, waits⟩ => ⟨(List.mem_cons.1 listed).resolve_left ?_, owner, waits⟩,
        fun ⟨listed, owner, waits⟩ => ⟨List.mem_cons_of_mem c listed, owner, waits⟩⟩
      rintro rfl
      exact other ⟨by rw [waits.1]; decide, owner⟩
    rw [decide_eq_decide.2 same]
  banks := h.banks
  flight := fun moving => by
    obtain ⟨shadow, pending⟩ := h.flight moving
    refine ⟨shadow, fun d => (pending d).trans (or_congr Iff.rfl ?_)⟩
    refine ⟨fun ⟨listed, own⟩ => ⟨List.mem_cons_of_mem c listed, own⟩, fun ⟨listed, own⟩ =>
      ⟨(List.mem_cons.1 listed).resolve_left ?_, own⟩⟩
    rintro rfl
    exact other own
  calm := fun still => by
    obtain ⟨pending, shadow⟩ := h.calm still
    refine ⟨pending, fun d i => (shadow d i).trans (if_congr ?_ rfl rfl)⟩
    simp [other]

theorem discarded_channel {p : Port} {s : State} {c : ChannelNo} (own : OwnedBy p s c) (d : ChannelNo) :
    (closeIfOwned p s c).channel d = if d = c then Channel.closed else s.channel d := by
  rw [closeIfOwned_own own]
  simp

theorem ownedBy_discarded {p : Port} {s : State} {c : ChannelNo} (own : OwnedBy p s c) (d : ChannelNo) :
    OwnedBy p (closeIfOwned p s c) d ↔ d ≠ c ∧ OwnedBy p s d := by
  rw [OwnedBy, discarded_channel own]
  by_cases same : d = c
  · simp [same, Channel.closed]
  · simp [same]

/-! ## One channel closed -/

section Discarded
variable {p : Port} {s : State} {c : ChannelNo}

theorem discarded_frame (own : OwnedBy p s c) : closeIfOwned p s c = { s with
    channels := (closeIfOwned p s c).channels, areas := (closeIfOwned p s c).areas
    cells := (closeIfOwned p s c).cells, plan := (closeIfOwned p s c).plan
    ports := (closeIfOwned p s c).ports } := by
  rw [closeIfOwned_own own, closeRecord_frame]
  rfl

theorem discarded_area (own : OwnedBy p s c) (m : AreaNo) : (closeIfOwned p s c).area m =
    if (s.channel c).area = some m then { s.area m with state := .free, channel := none } else s.area m := by
  rw [closeIfOwned_own own]
  exact closeRecord_area _ c m

theorem discarded_port (own : OwnedBy p s c) (q : Port) : (closeIfOwned p s c).port q =
    if q = p then { s.port p with orderCount := (s.port p).orderCount - (s.channel c).queue.length }
    else s.port q := by
  rw [closeIfOwned_own own, closeRecord_port, State.setPort_port]

theorem discarded_cell (own : OwnedBy p s c) (k : CellNo) : (closeIfOwned p s c).cell k =
    if WaitsOn (s.channel c) k then { s.cell k with waiters := (s.cell k).waiters.filter (· != c) }
    else s.cell k := by
  rw [closeIfOwned_own own, closeRecord_cell]
  exact leaveIfWaiting_cell ..

theorem discarded_plan (own : OwnedBy p s c) :
    (closeIfOwned p s c).plan = s.plan.closed s.exchange.inFlight c := by
  rw [closeIfOwned_own own, closeRecord_plan]
  rfl

/-- What waits on a cell in the port's name once the channel is closed: what did, the channel left out. -/
theorem waitsOn_discarded (own : OwnedBy p s c) (d : ChannelNo) (k : CellNo) :
    ((closeIfOwned p s c).channel d).owner = some p ∧ WaitsOn ((closeIfOwned p s c).channel d) k ↔
      d ≠ c ∧ (s.channel d).owner = some p ∧ WaitsOn (s.channel d) k := by
  rw [discarded_channel own]
  by_cases same : d = c
  · simp [same, Channel.closed]
  · simp [same]

end Discarded

/-- One of the port's channels is closed, then those that the list names. -/
theorem ChannelsReleased.close {p : Port} {l : List ChannelNo} {s t : State} {c : ChannelNo} (own : OwnedBy p s c)
    (h : ChannelsReleased p l (closeIfOwned p s c) t) : ChannelsReleased p (c :: l) s t := by
  have frame := discarded_frame own
  have exchange : (closeIfOwned p s c).exchange.inFlight = s.exchange.inFlight := by rw [frame]
  have owned (d : ChannelNo) : (d ∈ l ∧ OwnedBy p (closeIfOwned p s c) d) ∨ d = c ↔
      d ∈ c :: l ∧ OwnedBy p s d := by
    rw [ownedBy_discarded own, List.mem_cons]
    by_cases same : d = c
    · subst same
      exact iff_of_true (.inr rfl) ⟨.inl rfl, own⟩
    · simp [same]
  refine ⟨?side, fun n => ?holders, fun n free => ?areas, ?port, fun q hq => ?ports, fun k => ?values,
    fun k => ?waiters, ?banks, fun moving => ?flight, fun still => ?calm⟩
  case side =>
    rw [h.side, frame]
  case holders =>
    rw [h.holders, discarded_area own]
    split <;> rfl
  case areas =>
    rw [h.areas n, discarded_area own, if_neg (free c own)]
    intro d hd
    obtain ⟨other, kept⟩ := (ownedBy_discarded own d).1 hd
    rw [discarded_channel own, if_neg other]
    exact free d kept
  case port =>
    obtain ⟨n, port⟩ := h.port
    exact ⟨n, by rw [port, discarded_port own, if_pos rfl]⟩
  case ports =>
    rw [h.ports q hq, discarded_port own, if_neg hq]
  case values =>
    rw [h.values, discarded_cell own]
    split <;> rfl
  case waiters =>
    have left : ((closeIfOwned p s c).cell k).waiters =
        (s.cell k).waiters.filter fun d => !decide (d = c ∧ WaitsOn (s.channel c) k) := by
      rw [discarded_cell own]
      split
      · rename_i waits
        refine List.filter_congr fun d _ => ?_
        rw [decide_eq_decide.2 (and_iff_left waits)]
        rfl
      · rename_i busy
        simp [busy]
    rw [h.waiters, left, List.filter_filter]
    refine List.filter_congr fun d _ => ?_
    rw [← Bool.not_or, ← Bool.decide_or, decide_eq_decide.2 (?_ : _ ↔ (d ∈ c :: l ∧ (s.channel d).owner = some p ∧
      WaitsOn (s.channel d) k))]
    rw [waitsOn_discarded own, List.mem_cons]
    by_cases same : d = c
    · simp [same, own.2]
    · simp [same]
  case banks =>
    obtain ⟨active, tables, receive, retained⟩ := h.banks
    rw [active, tables, receive, retained, discarded_plan own]
    cases s.exchange.inFlight with
    | true => exact ⟨rfl, rfl, rfl, rfl⟩
    | false =>
      obtain ⟨active, receive, retained, -, tables, -⟩ := s.plan.closed_calm c
      exact ⟨active, tables, receive, retained⟩
  case flight =>
    obtain ⟨shadow, pending⟩ := h.flight (exchange.trans moving)
    rw [shadow, discarded_plan own, moving]
    refine ⟨rfl, fun d => ?_⟩
    rw [pending, ← owned, discarded_plan own, moving, SlotPlan.closed_flight]
    dsimp only
    rw [Vector.getElem_set]
    by_cases same : d = c
    · simp [same]
    · rw [if_neg fun e => same (Fin.ext e).symm]
      simp only [same, or_false]
  case calm =>
    obtain ⟨pending, shadow⟩ := h.calm (exchange.trans still)
    obtain ⟨-, -, -, kept, -, entries⟩ := s.plan.closed_calm c
    rw [pending, discarded_plan own, still]
    refine ⟨kept, fun d i => ?_⟩
    rw [shadow, discarded_plan own, still, entries]
    cases (s.plan.shadowTables.table d)[i.val] with
    | none => simp
    | some e =>
      by_cases same : e = c
      · have named : ∃ e' ∈ c :: l, OwnedBy p s e' ∧ some e = some e' :=
          ⟨c, List.mem_cons_self, own, congrArg some same⟩
        rw [if_pos named, if_pos (congrArg some same), ite_self]
      · rw [if_neg fun h => same (Option.some_inj.1 h)]
        refine if_congr ?_ rfl rfl
        refine ⟨fun ⟨e', listed, kept, entry⟩ => ?_, fun ⟨e', listed, kept, entry⟩ => ?_⟩
        · obtain ⟨all, open_⟩ := (owned e').1 (.inl ⟨listed, kept⟩)
          exact ⟨e', all, open_, entry⟩
        · cases entry
          obtain ⟨rest, kept⟩ := ((owned e).2 ⟨listed, kept⟩).resolve_right same
          exact ⟨e, rest, kept, rfl⟩

theorem channelsReleased_foldl (p : Port) (l : List ChannelNo) :
    ∀ s, ChannelsReleased p l s (l.foldl (closeIfOwned p) s) := by
  induction l with
  | nil => exact ChannelsReleased.nil p
  | cons c l ih =>
    intro s
    rw [List.foldl_cons]
    by_cases own : OwnedBy p s c
    · exact (ih _).close own
    · rw [closeIfOwned_other own]
      exact (ih s).skip own

theorem channelsReleased_closeOwned (p : Port) (s : State) :
    ChannelsReleased p (List.finRange 8) s (closeOwned p s) := channelsReleased_foldl p _ s

/-! ## The port's areas released (R113) -/

theorem dropHeld_foldl (p : Port) (l : List AreaNo) : ∀ s : State,
    let t := l.foldl (fun s n => if (s.area n).holder = some p then s.setArea n Area.undefined else s) s
    t = { s with areas := t.areas } ∧ ∀ m, t.area m =
      if m ∈ l ∧ (s.area m).holder = some p then Area.undefined else s.area m := by
  induction l with
  | nil => exact fun s => ⟨rfl, fun m => by simp⟩
  | cons n l ih =>
    intro s
    rw [List.foldl_cons]
    by_cases held : (s.area n).holder = some p
    · rw [if_pos held]
      obtain ⟨frame, areas⟩ := ih (s.setArea n Area.undefined)
      refine ⟨frame, fun m => ?_⟩
      rw [areas, State.setArea_area]
      by_cases same : m = n
      · simp [same, held]
      · simp [same]
    · rw [if_neg held]
      obtain ⟨frame, areas⟩ := ih s
      refine ⟨frame, fun m => ?_⟩
      rw [areas]
      by_cases same : m = n
      · simp [same, held]
      · simp [same]

theorem dropHeld_frame (p : Port) (s : State) : dropHeld p s = { s with areas := (dropHeld p s).areas } :=
  (dropHeld_foldl p _ s).1

theorem dropHeld_area (p : Port) (s : State) (m : AreaNo) : (dropHeld p s).area m =
    if (s.area m).holder = some p then Area.undefined else s.area m := by
  refine ((dropHeld_foldl p _ s).2 m).trans (if_congr ?_ rfl rfl)
  simp

/-! ## The port's claim (R24) -/

/-- What a change of the claims brings about is seen in the framer, the link and the exchange alone. -/
theorem reviewClaims_frame (s : State) : reviewClaims s = { s with
    framer := (reviewClaims s).framer, link := (reviewClaims s).link, exchange := (reviewClaims s).exchange } := by
  unfold reviewClaims answerIfWilling tryIfReady leaveIfUnwanted
  split
  · split_ifs <;> rfl
  · split <;> rfl
  · split <;> rfl
  · rfl

/-- Two states with the same framer, link, exchange and settings. -/
structure SameTrunk (s t : State) : Prop where
  framer : t.framer = s.framer
  link : t.link = s.link
  exchange : t.exchange = s.exchange
  settings : t.settings = s.settings

theorem reviewClaims_congr {s t : State} (h : SameTrunk s t) : SameTrunk (reviewClaims s) (reviewClaims t) := by
  obtain ⟨framer, link, exchange, settings⟩ := h
  have entered {f : State → State} (same : SameTrunk (f s) (f t)) {a b : Bool} (ab : a = b) :
      SameTrunk (if a then f s else s) (if b then f t else t) := by
    subst ab
    split
    · exact same
    · exact ⟨framer, link, exchange, settings⟩
  have willing : willAnswer t = willAnswer s := by rw [willAnswer, willAnswer, settings, link]
  have answering : SameTrunk (enterAnswering s) (enterAnswering t) :=
    ⟨by simp [enterAnswering, setLine, framer], by simp [enterAnswering, setLine, link], exchange, settings⟩
  have waking : SameTrunk (beginTry s) (beginTry t) :=
    ⟨by simp [beginTry, setLine, framer], by simp [beginTry, setLine, link], exchange, settings⟩
  have leaving : SameTrunk (enterLeaving s) (enterLeaving t) :=
    ⟨by simp [enterLeaving, clearMismatchRun, framer], by simp [enterLeaving, clearMismatchRun, link],
      by simp [enterLeaving, clearMismatchRun, exchange], settings⟩
  have answers : SameTrunk (answerIfWilling s) (answerIfWilling t) := entered answering (by rw [link, willing])
  have tries : SameTrunk (tryIfReady s) (tryIfReady t) := entered waking (by rw [link])
  have leaves : SameTrunk (leaveIfUnwanted s) (leaveIfUnwanted t) := entered leaving (by rw [link])
  unfold reviewClaims
  rw [link]
  split
  · split
    · exact answers
    · exact tries
  · exact leaves
  · exact leaves
  · exact ⟨framer, link, exchange, settings⟩

theorem removeClaim_congr {s t : State} (h : SameTrunk s t) (p : Port) :
    SameTrunk (removeClaim p s) (removeClaim p t) := by
  refine reviewClaims_congr ⟨h.framer, ?_, h.exchange, h.settings⟩
  rw [h.link]

theorem removeClaim_frame (p : Port) (s : State) : removeClaim p s = { s with
    framer := (removeClaim p s).framer, link := (removeClaim p s).link, exchange := (removeClaim p s).exchange } :=
  reviewClaims_frame _

theorem reviewClaims_claims (s : State) : (reviewClaims s).link.claims = s.link.claims := by
  unfold reviewClaims answerIfWilling tryIfReady leaveIfUnwanted
  split
  · split_ifs <;> rfl
  · split <;> rfl
  · split <;> rfl
  · rfl

/-! ## PORT RESET (R169) -/

theorem SameTrunk.of_released {p : Port} {l : List ChannelNo} {s u : State} (h : ChannelsReleased p l s u) :
    SameTrunk s (dropHeld p u) := by
  have side := h.side
  rw [dropHeld_frame]
  exact ⟨by rw [side], by rw [side], by rw [side], by rw [side]⟩

/-- The state with the trunk's parts of `a`, and with the tables of `u` and its areas of `b`. -/
def joined (s a b u : State) : State :=
  { s with
    framer := a.framer, link := a.link, exchange := a.exchange
    plan := u.plan, areas := b.areas, channels := u.channels, cells := u.cells, ports := u.ports }

/-- Steps 1 and 2 by their parts: the trunk's from the removed claim, the tables' from the released channels. -/
theorem removeClaim_released {p : Port} {l : List ChannelNo} {s u : State} (h : ChannelsReleased p l s u) :
    removeClaim p (dropHeld p u) = joined s (removeClaim p s) (dropHeld p u) u := by
  obtain ⟨framer, link, exchange, -⟩ := removeClaim_congr (SameTrunk.of_released h) p
  rw [removeClaim_frame, framer, link, exchange, dropHeld_frame]
  have side := h.side
  generalize dropHeld p u = b
  generalize removeClaim p s = a
  rw [side]
  rfl

/-- Steps 3 to 5 of PORT RESET: the report queue of the service port and the port's own items emptied. -/
def portEmptied (p : Port) (t : State) : State :=
  { t with service := if t.settings.servicePort = p then { t.service with reports := [], overflow := false }
      else t.service }.setPort p (t.port p).cleared

theorem resetPort_eq (p : Port) (s : State) :
    resetPort p s = portEmptied p (removeClaim p (dropHeld p (closeOwned p s))) := by
  unfold resetPort
  generalize removeClaim p (dropHeld p (closeOwned p s)) = t
  unfold portEmptied
  dsimp only
  split <;> rfl

/-- The waiter lists after the release of the port's channels, by the record of each waiter (R148). -/
theorem releasedWaiter_eq (s : State) (p : Port) (k : CellNo) (c : ChannelNo) :
    (!decide (c ∈ List.finRange 8 ∧ (s.channel c).owner = some p ∧ WaitsOn (s.channel c) k)) =
      !((s.channel c).owner == some p && (s.channel c).state == .waiting &&
        (s.channel c).queue.head?.bind Order.gate == some k) := by
  rw [Bool.not_inj_iff, Bool.eq_iff_iff]
  by_cases gate : (s.channel c).queue.head?.bind Order.gate = some k
  · simp [Channel.headGate, gate]
  · simp [Channel.headGate, gate]

/-- Settles O45: the released channels, areas and claim, and the port's own items emptied. -/
theorem portResetReleasesPort : Obligations.PortResetReleasesPort := by
  intro p s taken own
  have released := channelsReleased_closeOwned p s
  have closed (c : ChannelNo) := closeOwned_channel p s c
  have dropped (m : AreaNo) := dropHeld_area p (closeOwned p s) m
  have reset : resetPort p s = portEmptied p (joined s (removeClaim p s) (dropHeld p (closeOwned p s))
      (closeOwned p s)) := by rw [resetPort_eq, removeClaim_released released]
  have runs : exec (.portReset p) s = doneWith p [] (resetPort p s) := by
    rw [exec_portReset, taken, takeCommand_taken]
    rfl
  rw [reset] at runs
  generalize closeOwned p s = u at released closed dropped runs
  generalize dropHeld p u = b at dropped runs
  have own_iff (c : ChannelNo) : (s.channel c).isOpen = true ∧ (s.channel c).owner = some p ↔ own c := by
    simp [own, Channel.isOpen]
  obtain ⟨active, tables, receive, retained⟩ := released.banks
  obtain ⟨count, port⟩ := released.port
  refine ⟨_, runs, fun c mine => ?_, fun c other => ?_, fun n held => ?_, fun n foreign free => ?_, ?_,
    fun q hq => ?_, released.values, fun k => ?_, rfl, rfl, rfl, ?_, rfl, active, tables, receive, retained,
    fun moving => ?_, fun still => ?_, rfl⟩
  · exact (closed c).trans (if_pos ((own_iff c).2 mine))
  · exact (closed c).trans (if_neg (mt (own_iff c).1 other))
  · exact (dropped n).trans (if_pos ((released.holders n).trans held))
  · refine (dropped n).trans ((if_neg ?_).trans (released.areas n free))
    rw [released.holders n]
    exact foreign
  · refine (State.setPort_port ..).trans ((if_pos rfl).trans ?_)
    change (u.port p).cleared = _
    rw [port]
    rfl
  · refine (State.setPort_port ..).trans ((if_neg hq).trans ?_)
    exact released.ports q hq
  · refine (released.waiters k).trans (List.filter_congr fun c _ => ?_)
    exact releasedWaiter_eq s p k c
  · exact reviewClaims_claims _
  · obtain ⟨shadow, pending⟩ := released.flight (bne_iff_ne.2 moving)
    refine ⟨shadow, fun c => (pending c).trans (or_congr Iff.rfl ?_)⟩
    exact and_iff_right (List.mem_finRange c)
  · obtain ⟨pending, shadow⟩ := released.calm (bne_eq_false_iff_eq.2 still)
    refine ⟨pending, fun d i => (shadow d i).trans ?_⟩
    cases (s.plan.shadowTables.table d)[i.val] with
    | none => simp
    | some c =>
      refine if_congr ?_ rfl rfl
      constructor
      · rintro ⟨e, -, mine, entry⟩
        cases entry
        exact mine
      · exact fun mine => ⟨c, List.mem_finRange c, mine, rfl⟩

end Sys2Proof.Machine
end

section
/-! SUPPORT. The transactions of a port: what the whole ones do, how a header is decoded, the rows that the bits of a
transaction make, and the bytes that a read carries (R155 to R158, R162, R163, R171, R172). They settle O46. -/

namespace Sys2Proof.Machine

open Sys2Proof

/-! ## Whole transactions -/

/-- The port once its transaction is over (R155). -/
def PortState.over (q : PortState) : PortState := { q with transaction := .off, sdo := none }

/-- A whole transaction whose act turns the port's state by `react`, which reads neither the select line nor SDO. -/
theorem transact_eq {p : Port} {header : Byte} {act : State → State} {s : State} {react : PortState → PortState}
    (acts : ∀ q, act (s.setPort p q) = s.setPort p (react q))
    (bare : ∀ q x v, react { q with transaction := x, sdo := v } = { react q with transaction := x, sdo := v }) :
    transact p header act s = s.setPort p (react (s.port p)).over := by
  rw [transact, State.beginAccess, State.setTransaction, acts, bare, State.endAccess, State.setTransaction,
    State.setPort_setPort, State.setPort_port, if_pos rfl]
  rfl

theorem PortState.writeCode_eq (q : PortState) (code : Byte) : q.writeCode code =
    if q.command ≠ .pending then { q with command := .pending, code := code }
    else if code = 0x7F#8 then { q with code := code }
    else q.raise .cmdOverrun := by
  by_cases pending : q.command = .pending
  · rw [if_neg (not_not.2 pending), PortState.writeCode, if_pos pending]
    rfl
  · rw [if_pos pending, PortState.writeCode, if_neg pending]

theorem exec_commandWrite (p : Port) (code : Byte) (rest : List Byte) (s : State) :
    exec (.commandWrite p (code :: rest)) s = .next (s.setPort p ((s.port p).writeCode code).over) := by
  refine congrArg Host.Outcome.next (transact_eq (react := (·.writeCode code)) (fun q => ?_) fun q x v => ?_)
  · simp
  · unfold PortState.writeCode
    split
    · split <;> rfl
    · rfl

theorem exec_parameterWrite (p : Port) (offset : Byte) (data : List Byte) (s : State) :
    exec (.parameterWrite p offset data) s =
      .next (s.setPort p ((s.port p).writeParameters offset data).over) := by
  refine congrArg Host.Outcome.next (transact_eq (react := (·.writeParameters offset data)) (fun q => ?_)
    fun q x v => ?_)
  · simp
  · unfold PortState.writeParameters
    split
    · rfl
    · split <;> rfl

theorem exec_eventsWrite (p : Port) (lo hi : Byte) (rest : List Byte) (s : State) :
    exec (.eventsWrite p (lo :: hi :: rest)) s =
      .next (s.setPort p { s.port p with events := (s.port p).events &&& ~~~wordOf lo hi }.over) :=
  congrArg Host.Outcome.next (transact_eq
    (react := fun q => { q with events := q.events &&& ~~~wordOf lo hi }) (fun q => by simp) fun _ _ _ => rfl)

theorem exec_maskWrite (p : Port) (lo hi : Byte) (rest : List Byte) (s : State) :
    exec (.maskWrite p (lo :: hi :: rest)) s =
      .next (s.setPort p { s.port p with mask := wordOf lo hi &&& eventBits }.over) :=
  congrArg Host.Outcome.next (transact_eq
    (react := fun q => { q with mask := wordOf lo hi &&& eventBits }) (fun q => by simp) fun _ _ _ => rfl)

/-- EVENTS and MASK take their two bytes together: without the second nothing is done (R162, R163). -/
theorem exec_shortWrite (p : Port) {data : List Byte} (short : data.length < 2) (s : State) :
    exec (.eventsWrite p data) s = .next (s.setPort p (s.port p).over) ∧
      exec (.maskWrite p data) s = .next (s.setPort p (s.port p).over) := by
  match data, short with
  | [], _ => exact ⟨congrArg Host.Outcome.next (transact_eq (react := id) (fun _ => rfl) fun _ _ _ => rfl),
      congrArg Host.Outcome.next (transact_eq (react := id) (fun _ => rfl) fun _ _ _ => rfl)⟩
  | [_], _ => exact ⟨congrArg Host.Outcome.next (transact_eq (react := id) (fun _ => rfl) fun _ _ _ => rfl),
      congrArg Host.Outcome.next (transact_eq (react := id) (fun _ => rfl) fun _ _ _ => rfl)⟩

/-! ## The access header (R171, R172) -/

theorem accessOf_noTarget_iff (header : Byte) :
    accessOf header = .noTarget ↔ headerMeetsNoTarget header = true := by
  revert header
  decide

theorem accessOf_writeData (c : ChannelNo) : accessOf (byteOf (6 + c.val)) = .write (.data c) := by
  revert c
  decide

theorem accessOf_readData (c : ChannelNo) : accessOf (byteOf (134 + c.val)) = .read (.data c) := by
  revert c
  decide

theorem exec_noTargetAccess (p : Port) {header : Byte} (data : List Byte) (s : State)
    (noTarget : headerMeetsNoTarget header = true) : exec (.noTargetAccess p header data) s =
      .next (s.setPort p (if header = 0x03#8 ∧ data = [] then s.port p else (s.port p).raise .access).over) := by
  have meets : meetsNoTarget header = true := beq_iff_eq.2 ((accessOf_noTarget_iff header).2 noTarget)
  refine congrArg Host.Outcome.next ((if_pos meets).trans (transact_eq (react := fun q =>
    if header = 0x03#8 ∧ data = [] then q else q.raise .access) (fun q => ?_) fun q x v => ?_))
  · have same : (writesResult header && data.isEmpty) = true ↔ header = 0x03#8 ∧ data = [] := by
      rw [Bool.and_eq_true, List.isEmpty_iff, writesResult, beq_iff_eq]
      rfl
    by_cases none : header = 0x03#8 ∧ data = []
    · simp only [if_pos none, if_pos (same.2 none)]
    · simp only [if_neg none, if_neg (mt same.1 none), State.setPort_raise]
  · split <;> rfl

/-! ## The parameter block (R156, R158) -/

theorem storeBytes_getElem (data : List Byte) (i : Fin 24) : ∀ (n : Nat) (v : Vector Byte 24),
    (storeBytes n data v)[i.val] =
      if n ≤ i.val ∧ i.val < n + data.length then data.getD (i.val - n) 0#8 else v[i.val] := by
  induction data with
  | nil =>
    intro n v
    rw [storeBytes, if_neg (by simp)]
  | cons b data ih =>
    intro n v
    rw [storeBytes]
    split
    · rename_i inside
      rw [ih, Vector.getElem_set, List.length_cons]
      by_cases here : n = i.val
      · rw [if_neg (by omega), if_pos here, if_pos (by omega), here, Nat.sub_self]
        rfl
      · by_cases later : n + 1 ≤ i.val ∧ i.val < n + 1 + data.length
        · rw [if_pos later, if_pos (by omega), show i.val - n = i.val - (n + 1) + 1 by omega]
          rfl
        · rw [if_neg later, if_neg here, if_neg (by omega)]
    · rename_i outside
      rw [if_neg (by omega)]

/-! ## The interrupt (R163) -/

/-- Each of the fourteen bits stands for one event (R172). -/
theorem exists_event_bit {i : Nat} (h : i < 14) : ∃ e : Event, e.bit = i := by
  have all : ∀ j : Fin 14, ∃ e ∈ [Event.cmdDone, .completion, .halted, .unclaimed, .badUnit, .dataSpill, .access,
    .cmdOverrun, .link, .wakeSeen, .plan, .service, .cell, .looped], e.bit = j.val := by decide
  obtain ⟨e, -, bit⟩ := all ⟨i, h⟩
  exact ⟨e, bit⟩

theorem eventBits_getLsbD {x : Word} (inRange : x &&& eventBits = x) {i : Nat} (h : x.getLsbD i = true) :
    i < 14 := by
  rw [← inRange, BitVec.getLsbD_and, Bool.and_eq_true] at h
  have low : ∀ j : Fin 16, eventBits.getLsbD j.val = true → j.val < 14 := by decide
  exact low ⟨i, BitVec.lt_of_getLsbD h.2⟩ h.2

theorem interruptAsserted_iff {q : PortState} (inRange : q.eventsInRange) : q.interruptAsserted = true ↔
    ∃ e : Event, q.holds e = true ∧ q.mask.getLsbD e.bit = true := by
  rw [PortState.interruptAsserted, bne_iff_ne]
  constructor
  · intro common
    by_contra quiet
    refine common (BitVec.eq_of_getLsbD_eq fun i _ => ?_)
    rw [BitVec.getLsbD_and, BitVec.getLsbD_zero]
    refine Bool.eq_false_iff.2 fun both => ?_
    obtain ⟨event, masked⟩ := Bool.and_eq_true_iff.1 both
    obtain ⟨e, bit⟩ := exists_event_bit (eventBits_getLsbD inRange.1 event)
    exact quiet ⟨e, by rw [PortState.holds, bit, event], by rw [bit, masked]⟩
  · rintro ⟨e, held, masked⟩ zero
    have bit : (q.events &&& q.mask).getLsbD e.bit = true := by
      rw [BitVec.getLsbD_and, Bool.and_eq_true]
      exact ⟨held, masked⟩
    rw [zero] at bit
    simp at bit

/-! ## The bits of a transaction (R155) -/

/-- A byte on SDIn, most significant bit first (R155). -/
abbrev lineBits (b : Byte) : List Bool :=
  [b.getLsbD 7, b.getLsbD 6, b.getLsbD 5, b.getLsbD 4, b.getLsbD 3, b.getLsbD 2, b.getLsbD 1, b.getLsbD 0]

theorem bitsByte_lineBits (b : Byte) : bitsByte (lineBits b) = b := by
  revert b
  decide

theorem completeBytes_of_short {bits : List Bool} (h : bits.length < 8) : completeBytes bits = [] := by
  rw [completeBytes, Nat.div_eq_of_lt h]
  rfl

theorem completeBytes_lineBits (b : Byte) (rest : List Bool) :
    completeBytes (lineBits b ++ rest) = b :: completeBytes rest := by
  have count : (lineBits b ++ rest).length / 8 = rest.length / 8 + 1 := by
    rw [List.length_append]
    change (8 + rest.length) / 8 = _
    omega
  rw [completeBytes, count, List.range_succ_eq_map, List.map_cons, List.map_map]
  refine congrArg₂ _ (bitsByte_lineBits b) (List.map_congr_left fun i _ => ?_)
  have skipped : (lineBits b ++ rest).drop (8 * (i + 1)) = rest.drop (8 * i) := by
    rw [Nat.mul_succ, Nat.add_comm, ← List.drop_drop]
    rfl
  exact congrArg (fun l => bitsByte (l.take 8)) skipped

theorem completeBytes_lines (l : List Byte) {part : List Bool} (h : part.length < 8) :
    completeBytes (l.flatMap lineBits ++ part) = l := by
  induction l with
  | nil => exact completeBytes_of_short h
  | cons b l ih => rw [List.flatMap_cons, List.append_assoc, completeBytes_lineBits, ih]

theorem length_lines (l : List Byte) : (l.flatMap lineBits).length = 8 * l.length := by
  induction l with
  | nil => rfl
  | cons b l ih =>
    rw [List.flatMap_cons, List.length_append, ih]
    change 8 + 8 * l.length = 8 * (l.length + 1)
    omega

/-- The bytes of a read begun after the header: a byte begins with its first bit (log entry 19). -/
abbrev begunBytes (data : List Byte) (part : List Bool) : Nat := data.length + if part = [] then 0 else 1

/-- The rows that whole bytes and the first bits of one more make. -/
theorem transactionRows_lines (p : Port) (header : Byte) (data : List Byte) {part : List Bool}
    (h : part.length < 8) : transactionRows p ((header :: data).flatMap lineBits ++ part) =
      accessRows p header data (begunBytes data part) := by
  have begun : (((header :: data).flatMap lineBits ++ part).length - 1) / 8 = begunBytes data part := by
    rw [List.length_append, length_lines, List.length_cons, begunBytes]
    by_cases whole : part = []
    · simp [whole]
      omega
    · have some : 0 < part.length := List.length_pos_of_ne_nil whole
      rw [if_neg whole]
      omega
  rw [transactionRows, completeBytes_lines _ h, begun]

section AccessRows
variable {p : Port} {header : Byte} {data : List Byte} {begun : Nat} {c : ChannelNo}

theorem accessRows_noTarget (h : accessOf header = .noTarget) :
    accessRows p header data begun = [.noTargetAccess p header data] := by
  unfold accessRows
  rw [h]

theorem accessRows_writeData (h : accessOf header = .write (.data c)) :
    accessRows p header data begun = windowWrites p c true data := by
  unfold accessRows
  rw [h]

theorem accessRows_readData (h : accessOf header = .read (.data c)) :
    accessRows p header data begun = windowReads p c true begun := by
  unfold accessRows
  rw [h]

end AccessRows

theorem rowFor_eq (data : List Byte) (row : Instr) : rowFor data row = if data = [] then [] else [row] := by
  cases data <;> rfl

/-- The rows of a write on a data window: one for each byte. -/
theorem windowWrites_getElem? (p : Port) (c : ChannelNo) (data : List Byte) : ∀ (begins : Bool) (i : Nat)
    (h : i < data.length), (windowWrites p c begins data)[i]? =
      some (.dataWindowWrite p c ⟨data[i], begins && i == 0, i + 1 == data.length⟩) := by
  induction data with
  | nil => exact fun _ i h => absurd h (Nat.not_lt_zero i)
  | cons b data ih =>
    intro begins i h
    cases data with
    | nil =>
      have first : i = 0 := by simpa using h
      subst first
      simp [windowWrites]
    | cons b' data =>
      cases i with
      | zero => simp [windowWrites]
      | succ i =>
        have tail := ih false i (Nat.lt_of_succ_lt_succ h)
        simpa [windowWrites] using tail

/-- The rows of a read on a data window: one for each byte begun. -/
theorem windowReads_getElem? (p : Port) (c : ChannelNo) : ∀ (n : Nat) (begins : Bool) (i : Nat), i < n →
    (windowReads p c begins n)[i]? = some (.dataWindowRead p ⟨c, begins && i == 0, i + 1 == n⟩)
  | 0, _, i, h => absurd h (Nat.not_lt_zero i)
  | 1, begins, i, h => by
    have first : i = 0 := by simpa using h
    subst first
    simp [windowReads]
  | n + 2, begins, 0, _ => by simp [windowReads]
  | n + 2, begins, i + 1, h => by
    have tail := windowReads_getElem? p c (n + 1) false i (Nat.lt_of_succ_lt_succ h)
    simpa [windowReads] using tail

/-! ## The bytes of a read (R110, R155, R156) -/

/-- A window's bytes over as many data bytes as a read has, 0x00 beyond them (R156). -/
def paddedTo (n : Nat) (bytes : List Byte) : List Byte := (bytes ++ List.replicate n 0#8).take n

theorem mapIdx_windowByte (bytes : List Byte) (moments : List State) :
    (moments.mapIdx fun i _ => windowByte bytes i) = paddedTo moments.length bytes := by
  refine List.ext_getElem (by simp [paddedTo]) fun i h _ => ?_
  have inside : i < moments.length := by simpa using h
  simp only [List.getElem_mapIdx, windowByte, paddedTo, List.getElem_take]
  by_cases low : i < bytes.length
  · simp [low]
  · simp [List.getElem_append_right (not_lt.1 low), List.getElem?_eq_none (not_lt.1 low)]

theorem shiftedOut_read {p : Port} {header offset : Byte} {moments : List State} {w : Window}
    (h : accessOf header = .read w) : shiftedOut p header offset moments =
      (if w.hasOffset then [0#8, 0#8] else [0#8]) ++
        moments.mapIdx fun i now => readByte p offset w (moments.headD now) now i := by
  rw [shiftedOut, h]

/-- Of a window whose bytes are fixed together, the bytes at the first data byte count (R156). -/
theorem readByte_fixed {w : Window} (fixed : w.fixedTogether = true) (p : Port) (offset : Byte)
    (first now : State) (i : Nat) :
    readByte p offset w first now i = windowByte (windowBytes (first.port p) offset w) i := by
  cases w with
  | status => rfl
  | result => rfl
  | events => rfl
  | command => exact absurd fixed (by decide)
  | parameter => exact absurd fixed (by decide)
  | mask => exact absurd fixed (by decide)
  | data c => exact absurd fixed (by simp [Window.fixedTogether])

theorem shiftedOut_fixed {p : Port} {header offset : Byte} {first : State} {later : List State} {w : Window}
    (h : accessOf header = .read w) (fixed : w.fixedTogether = true) :
    shiftedOut p header offset (first :: later) = (if w.hasOffset then [0#8, 0#8] else [0#8]) ++
      paddedTo (first :: later).length (windowBytes (first.port p) offset w) := by
  rw [shiftedOut_read h, ← mapIdx_windowByte]
  refine congrArg (_ ++ List.mapIdx · _) (funext fun i => funext fun now => ?_)
  exact readByte_fixed fixed ..

/-- A data byte of a read, after the `k` bytes of the header and of the offset. -/
theorem shiftedOut_getElem? {p : Port} {header offset : Byte} {moments : List State} {w : Window} {k i : Nat}
    {now : State} (h : accessOf header = .read w)
    (opening : (if w.hasOffset then [0#8, 0#8] else [0#8] : List Byte).length = k) (at_ : moments[i]? = some now) :
    (shiftedOut p header offset moments)[i + k]? = some (readByte p offset w (moments.headD now) now i) := by
  rw [shiftedOut_read h, List.getElem?_append_right (by omega), opening, Nat.add_sub_cancel,
    List.getElem?_mapIdx, at_]
  rfl

theorem shiftedOut_length {p : Port} {header offset : Byte} {moments : List State} {w : Window} {k : Nat}
    (h : accessOf header = .read w)
    (opening : (if w.hasOffset then [0#8, 0#8] else [0#8] : List Byte).length = k) :
    (shiftedOut p header offset moments).length = moments.length + k := by
  rw [shiftedOut_read h, List.length_append, opening, List.length_mapIdx, Nat.add_comm]

theorem windowByte_drop (l : List Byte) (n i : Nat) : windowByte (l.drop n) i = l.getD (n + i) 0#8 := by
  rw [windowByte, List.getD_eq_getElem?_getD, List.getElem?_drop, List.getD_eq_getElem?_getD]

/-- The byte that a whole read of one byte leaves as sent (R110). -/
theorem exec_dataWindowRead_sent (p : Port) (c : ChannelNo) (s : State) :
    ∃ t, exec (.dataWindowRead p ⟨c, true, true⟩) s = .next t ∧ (t.port p).sent = [dataWindowByte s p c] := by
  refine ⟨_, rfl, ?_⟩
  have begun : transactByte p (readHeader (.data c)) true true (windowRead p c) s =
      (windowRead p c ((s.beginAccess p (readHeader (.data c))).clearSent p)).endAccess p := by
    simp [transactByte, State.beginAccess, State.setTransaction, State.clearSent]
  rw [begun]
  obtain ⟨sent, -⟩ := windowRead_sent p c ((s.beginAccess p (readHeader (.data c))).clearSent p)
  have cleared : (((s.beginAccess p (readHeader (.data c))).clearSent p).port p).sent = [] := by
    simp [State.clearSent]
  have same : dataWindowByte ((s.beginAccess p (readHeader (.data c))).clearSent p) p c =
      dataWindowByte s p c := rfl
  rw [cleared, same] at sent
  simpa [State.endAccess, State.setTransaction] using sent

theorem sdoFollowsSelect_step {s t : State} (h : SdoFollowsSelect s) (e : step s = .next t) :
    SdoFollowsSelect t := by
  obtain ⟨_, keeps⟩ := step_keeps e
  exact keeps.sdo h

/-- Settles O46: the whole transactions, the headers, the rows of the bits, the bytes of a read, and SDOn's
agreement with the select line through every step. -/
theorem portWritesAct : Obligations.PortWritesAct := by
  refine ⟨fun p s => ?whole, ?headers, fun p bits short => ?none, fun p header data part short => ?rows,
    fun p offset first later => ?reads, fun s t h e => sdoFollowsSelect_step h e⟩
  case whole =>
    intro q ended
    refine ⟨fun code rest => ?_, fun offset data some pending => ?_, fun offset data free => ?_,
      fun lo hi rest => ⟨exec_eventsWrite .., exec_maskWrite ..⟩, fun data short => exec_shortWrite p short s,
      fun header data noTarget => exec_noTargetAccess p data s noTarget, interruptAsserted_iff⟩
    · rw [exec_commandWrite, PortState.writeCode_eq]
      rfl
    · rw [exec_parameterWrite, PortState.writeParameters, if_neg (by simpa using some), if_pos pending]
      rfl
    · refine ⟨storeBytes offset.toNat data q.parameters, ?_, fun i => storeBytes_getElem data i _ _⟩
      rw [exec_parameterWrite, PortState.writeParameters]
      cases data with
      | nil => rfl
      | cons b data =>
        rw [if_neg (by simp), if_neg free]
        rfl
  case headers =>
    exact ⟨by decide, by decide, by decide, by decide, by decide, by decide, by decide, by decide, by decide,
      fun c => ⟨accessOf_writeData c, accessOf_readData c⟩, accessOf_noTarget_iff⟩
  case none =>
    rw [transactionRows, completeBytes_of_short short]
  case rows =>
    intro carried rows begun
    have made : rows = accessRows p header data begun := transactionRows_lines p header data short
    rw [made]
    refine ⟨fun noTarget => ?_, ?_, ?_, ?_, ?_, fun read => ?_, fun c => ⟨fun write => ?_, fun read => ?_⟩⟩
    · exact accessRows_noTarget ((accessOf_noTarget_iff header).2 noTarget)
    · rintro rfl
      exact rowFor_eq ..
    · rintro rfl
      match data with
      | [] => rfl
      | [_] => rfl
      | offset :: b :: rest => rfl
    · rintro rfl
      exact rowFor_eq ..
    · rintro rfl
      exact rowFor_eq ..
    · simp only [List.mem_cons, List.not_mem_nil, or_false] at read
      rcases read with rfl | rfl | rfl | rfl | rfl <;> rfl
    · rw [write, accessRows_writeData (accessOf_writeData c)]
      refine ⟨windowWrites_length p c data true, fun i h => ?_⟩
      simpa using windowWrites_getElem? p c data true i h
    · rw [read, accessRows_readData (accessOf_readData c)]
      refine ⟨windowReads_length p c begun true, fun i h => ?_⟩
      simpa using windowReads_getElem? p c begun true i h
  case reads =>
    intro moments q padded
    refine ⟨?_, ?_, ?_, fun i now at_ => ⟨?_, ?_, ?_, ?_, fun c => ⟨?_, ?_⟩⟩, ?_, fun header noTarget => ?_, ?_⟩
    · refine (shiftedOut_fixed (w := .status) (by decide) rfl).trans ?_
      refine congrArg (fun n => 0#8 :: padded [byteOf (n + q.resultCode.number), q.code,
        byteOf q.completions.length, byteOf q.orderCount]) ?_
      cases q.command <;> rfl
    · exact shiftedOut_fixed (w := .result) (by decide) rfl
    · exact shiftedOut_fixed (w := .events) (by decide) rfl
    · rw [shiftedOut_read (w := .parameter) (by decide)]
      rfl
    · rw [shiftedOut_getElem? (w := .parameter) (k := 2) (by decide) rfl at_]
      exact congrArg some (windowByte_drop ..)
    · rw [shiftedOut_read (w := .mask) (by decide)]
      rfl
    · rw [shiftedOut_getElem? (w := .mask) (k := 1) (by decide) rfl at_]
      rfl
    · rw [shiftedOut_read (accessOf_readData c)]
      rfl
    · obtain ⟨t, runs, sent⟩ := exec_dataWindowRead_sent p c now
      exact ⟨_, t, shiftedOut_getElem? (k := 1) (accessOf_readData c) rfl at_, runs, sent⟩
    · exact shiftedOut_length (w := .parameter) (by decide) rfl
    · rw [shiftedOut, (accessOf_noTarget_iff header).2 noTarget]
    · rintro header (rfl | ⟨c, rfl⟩)
      · exact shiftedOut_length (w := .mask) (by decide) rfl
      · exact shiftedOut_length (accessOf_readData c) rfl

end Sys2Proof.Machine
end

section
/-! SUPPORT. The service channel's two sides: the transmit slot at a position boundary, and an accepted position
(R46 to R48, R52 to R58, R60 to R64, R87, R88). They settle O59 and O60. -/

namespace Sys2Proof.Machine

open Sys2Proof

/-! ## The transmit slot (R46, R47) -/

/-- One more position sent of the message in the slot (R46). -/
def positionCounted (s : State) : State :=
  { s with service := { s.service with hold := s.service.hold + 1 } }

theorem positionBoundary_eq (s : State) : positionBoundary s = positionCounted (chooseMessage s) := rfl

section Choose
variable {s : State}

theorem chooseMessage_stays (h : s.service.hold < 3) : chooseMessage s = s := if_pos h

theorem chooseMessage_empty (h : 3 ≤ s.service.hold) (answer : s.service.answer = none)
    (origin : s.service.origin = []) : chooseMessage s = s := by
  rw [chooseMessage, if_neg (not_lt.2 h), answer, origin]

theorem chooseMessage_answer (h : 3 ≤ s.service.hold) {a : Answer} (answer : s.service.answer = some a) :
    chooseMessage s = moveAnswer s a := by
  rw [chooseMessage, if_neg (not_lt.2 h), answer]

theorem chooseMessage_origin (h : 3 ≤ s.service.hold) (answer : s.service.answer = none) {e : OriginEntry}
    {rest : List OriginEntry} (origin : s.service.origin = e :: rest) :
    chooseMessage s = moveOrigin s e rest := by
  rw [chooseMessage, if_neg (not_lt.2 h), answer, origin]

end Choose

/-- The answer's message in the slot, and nothing more (R46, R47). -/
def answerMoved (s : State) (m : Message) : State :=
  { s with service := { s.service with slot := m, hold := 0, answer := none } }

theorem moveAnswer_other {s : State} {a : Answer} (h : a.source = .other) :
    moveAnswer s a = answerMoved s a.message := by
  rw [moveAnswer, h]
  rfl

theorem moveAnswer_echo {s : State} {a : Answer} (h : a.source = .badChecksEcho) :
    moveAnswer s a = beginBadStart (answerMoved s a.message) := by
  rw [moveAnswer, h]
  rfl

theorem moveAnswer_plan {s : State} {a : Answer} (h : a.source = .plan) (other : a.message.code ≠ 0x11#8) :
    moveAnswer s a = answerMoved s a.message := by
  rw [moveAnswer, h]
  exact if_neg other

theorem moveAnswer_agree {s : State} {a : Answer} (h : a.source = .plan) (agree : a.message.code = 0x11#8) :
    moveAnswer s a = placeInSlot (agreeEntered { s with service := { s.service with answer := none } })
      { a.message with argument := (s.framer.cycle + 16#8).setWidth 16 } := by
  rw [moveAnswer, h]
  exact if_pos agree

/-- The entry of an AGREE fixes the target that is still to be fixed (R87). -/
theorem agreeEntered_eq (s : State) : agreeEntered s = { s with exchange := { s.exchange with
    target := if s.exchange.state = .scheduled ∧ s.exchange.side = some .agreer ∧ s.exchange.target = none then
      some (s.framer.cycle + 16#8) else s.exchange.target } } := by
  unfold agreeEntered
  by_cases unsent : s.exchange.agreeUnsent = true
  · rw [if_pos unsent, if_pos ((Exchange.agreeUnsent_iff _).1 unsent)]
    rfl
  · rw [if_neg unsent, if_neg (mt (Exchange.agreeUnsent_iff _).2 unsent)]

theorem beginBadStart_eq (s : State) : beginBadStart s = { s with service := { s.service with
    badStart := s.service.badStart.or (some 0) } } := by
  unfold beginBadStart
  cases counting : s.service.badStart with
  | none => rfl
  | some n =>
    change s = _
    rw [Option.some_or, ← counting]

theorem targetsPeer_iff (t : BitVec 4) : targetsPeer t = true ↔ t = 0#4 ∨ t = 15#4 := by
  simp [targetsPeer]

theorem isPlanCode_iff_mem (c : Byte) : isPlanCode c = true ↔ c ∈ [0x10#8, 0x11#8, 0x12#8, 0x13#8] := by
  revert c
  decide

/-- What asks for an echo: to PEER or ALL, a VALUE or an ORDER that is none of the six codes (R52, R177). -/
theorem awaits_iff (m : Message) : m.awaits = true ↔ (m.target = 0#4 ∨ m.target = 15#4) ∧
    (m.kind = .value ∨ m.code ∉ [0x00#8, 0x06#8, 0x10#8, 0x11#8, 0x12#8, 0x13#8]) := by
  have plan := isPlanCode_iff_mem m.code
  rw [Message.awaits, Bool.and_eq_true, targetsPeer_iff]
  refine and_congr Iff.rfl ?_
  rw [Bool.or_eq_true, beq_iff_eq, Bool.not_eq_true']
  refine or_congr Iff.rfl ?_
  rw [← Bool.not_eq_true, Bool.or_eq_true, Bool.or_eq_true, plan, beq_iff_eq, beq_iff_eq]
  simp [codeNone, codeDecline, and_assoc]

/-- Settles O59: the choice by the hold count, the answer place and the origin queue. -/
theorem transmitSlotChoice : Obligations.TransmitSlotChoice := by
  intro s v stays slot fixed
  refine ⟨fun early => ?_, fun late answer origin => ?_, fun a late answer => ⟨fun other => ?_, fun echo => ?_,
    fun plan code => ?_, fun plan agree => ?_⟩, fun e rest late answer origin => ⟨fun awaited => ?_, fun plain => ?_⟩⟩
  · rw [positionBoundary_eq, chooseMessage_stays early]
    rfl
  · rw [positionBoundary_eq, chooseMessage_empty late answer origin]
    rfl
  · rw [positionBoundary_eq, chooseMessage_answer late answer, moveAnswer_other other]
    rfl
  · rw [positionBoundary_eq, chooseMessage_answer late answer, moveAnswer_echo echo, beginBadStart_eq]
    have counted : (answerMoved s a.message).service.badStart.or (some 0) =
        match v.badStart with | some n => some n | none => some 0 := by
      change v.badStart.or (some 0) = _
      cases v.badStart <;> rfl
    rw [counted]
    rfl
  · rw [positionBoundary_eq, chooseMessage_answer late answer, moveAnswer_plan plan code]
    rfl
  · rw [positionBoundary_eq, chooseMessage_answer late answer, moveAnswer_agree plan agree, agreeEntered_eq]
    rfl
  · rw [positionBoundary_eq, chooseMessage_origin late answer origin, moveOrigin,
      if_pos ((awaits_iff _).2 awaited)]
    rfl
  · rw [positionBoundary_eq, chooseMessage_origin late answer origin, moveOrigin,
      if_neg (mt (awaits_iff _).1 plain)]
    rfl

/-! ## An accepted position (R53) -/

/-- A report with its disposition, or the overflow mark, and SERVICE on the service port (R59). -/
def reportMade (m : Message) (cycle : Byte) (place : Position) (d : Disposition) (x : State) : State :=
  let kept : Service := if x.service.reports.length < 8 then
    { x.service with reports := x.service.reports ++ [⟨m, cycle, place, d⟩] }
  else { x.service with overflow := true }
  ({ x with service := kept } : State).raise x.settings.servicePort .service

/-- The service channel after a position was looked at (R53, steps 1 and 3). -/
def positionSeen (s : State) (m : Message) : State :=
  { s with service := { s.service with previous := some m, look := some (nextLook s.service.look m) } }

/-- A message confirmed by its third position (R53, step 4). -/
def messageConfirmed (s : State) (m : Message) : State :=
  { s with service := { s.service with
      previous := some m, look := some (nextLook s.service.look m), lastConfirmed := some m } }

/-- The look run stands at `n` for the message (R53). -/
def lookedAlike (s : State) (m : Message) (n : Nat) : Prop :=
  ∃ r, s.service.look = some r ∧ r.candidate = m ∧ r.length = n

theorem reachesThree_iff (s : State) (m : Message) :
    reachesThree s.service.look m = true ↔ lookedAlike s m 2 := by
  unfold reachesThree lookedAlike
  cases s.service.look with
  | none => simp
  | some r => simp

theorem filterAsks_iff (s : State) (m : Message) : filterAsks s m = true ↔ s.settings.mode = .relay ∧
    (s.settings.filter = .every ∨ (s.settings.filter = .change ∧ s.service.previous ≠ some m)) := by
  simp [filterAsks]

theorem confirmationReported_iff (s : State) :
    confirmationReported s = true ↔ s.settings.mode = .auto ∨ s.settings.filter ≠ .change := by
  simp [confirmationReported]

section Positions
variable {s : State} {m : Message} (cycle : Byte) (place : Position)

/-- A position that confirms nothing (R53, R58). -/
theorem positionReceived_unconfirmed
    (h : ¬(lookedAlike s m 2 ∧ s.service.lastConfirmed ≠ some m)) :
    positionReceived s place cycle m =
      if filterAsks s m then reportMade m cycle place .seen (positionSeen s m) else positionSeen s m := by
  refine if_neg ?_
  rw [Bool.and_eq_true, reachesThree_iff, bne_iff_ne]
  exact h

/-- A position that confirms its message: the disposal, then the report (R53, R55, R58). -/
theorem positionReceived_confirmed (h : lookedAlike s m 2 ∧ s.service.lastConfirmed ≠ some m) :
    positionReceived s place cycle m =
      if confirmationReported s then
        reportMade m cycle place (dispose (messageConfirmed s m) m).1 (dispose (messageConfirmed s m) m).2
      else if filterAsks s m then reportMade m cycle place .seen (dispose (messageConfirmed s m) m).2
      else (dispose (messageConfirmed s m) m).2 := by
  refine if_pos ?_
  rw [Bool.and_eq_true, reachesThree_iff, bne_iff_ne]
  exact h

end Positions

/-! ## The disposal of a confirmed message (R55) -/

theorem Message.isPlan_iff (m : Message) :
    m.isPlan = true ↔ m.kind = .order ∧ m.code ∈ [0x10#8, 0x11#8, 0x12#8, 0x13#8] := by
  rw [Message.isPlan, Bool.and_eq_true, decide_eq_true_iff, isPlanCode_iff_mem]

section Dispose
variable {s : State} {m : Message}

theorem dispose_plan (h : m.isPlan = true) : dispose s m = (.plan, planReceived s m) := if_pos h

theorem dispose_echo (h : ¬m.isPlan = true) (awaited : m ∈ s.service.await) : dispose s m =
    (.echo, { s with service := { s.service with await := s.service.await.erase m } }) :=
  (if_neg h).trans (if_pos (List.contains_iff_mem.2 awaited))

theorem dispose_relay (h : ¬m.isPlan = true) (fresh : m ∉ s.service.await) (relay : s.settings.mode = .relay) :
    dispose s m = (.held, if m.kind = .order ∧ m.code = 0x06#8 then declineAwait s m.argument else s) := by
  refine (if_neg h).trans ((if_neg (mt List.contains_iff_mem.1 fresh)).trans ?_)
  rw [relay]
  refine congrArg (Prod.mk _) (if_congr ?_ rfl rfl)
  rw [Bool.and_eq_true, decide_eq_true_iff, decide_eq_true_iff]
  rfl

theorem dispose_order (h : ¬m.isPlan = true) (fresh : m ∉ s.service.await) (auto : s.settings.mode = .auto)
    (order : m.kind = .order) : dispose s m = autoOrder s m := by
  refine (if_neg h).trans ((if_neg (mt List.contains_iff_mem.1 fresh)).trans ?_)
  rw [auto, order]

theorem dispose_value (h : ¬m.isPlan = true) (fresh : m ∉ s.service.await) (auto : s.settings.mode = .auto)
    (value : m.kind = .value) : dispose s m = autoValue s m := by
  refine (if_neg h).trans ((if_neg (mt List.contains_iff_mem.1 fresh)).trans ?_)
  rw [auto, value]

/-- A DECLINE takes off the oldest message that its argument names (R44, R52). -/
theorem declineAwait_eq (s : State) (argument : Word) : declineAwait s argument =
    { s with service := { s.service with
      await := s.service.await.eraseP fun e =>
        argument = e.code.setWidth 16 + (if e.kind = .value then 256#16 else 0#16) } } := by
  have names : (fun e : Message => declineArgument e.kind e.code == argument) =
      fun e => decide (argument = e.code.setWidth 16 + (if e.kind = .value then 256#16 else 0#16)) := by
    funext e
    rw [Bool.eq_iff_iff, beq_iff_eq, decide_eq_true_iff, eq_comm]
    cases kind : e.kind with
    | order => simp [declineArgument]
    | value => simp [declineArgument]
  rw [declineAwait, names]

end Dispose

/-! ## The answers of the AUTO mode (R48, R56, R57) -/

/-- An answer written by a step that has left the answer place and the exchange as `s` has them: an unsent AGREE
that it displaces ends its schedule (R48, R88). -/
def answeredFrom (s x : State) (a : Message) (source : AnswerSource) : State :=
  if displacesAgree s then endExchange (answerWritten x a source) .withdrawn none false
  else answerWritten x a source

theorem answeredFrom_none {s : State} (h : s.service.answer = none) (x : State) (a : Message)
    (source : AnswerSource) : answeredFrom s x a source = answerWritten x a source :=
  if_neg (by simp [displacesAgree, h])

theorem answeredFrom_some {s : State} {old : Answer} (h : s.service.answer = some old) (x : State) (a : Message)
    (source : AnswerSource) : answeredFrom s x a source =
      if old.source = .plan ∧ old.message.code = 0x11#8 ∧ s.exchange.state = .scheduled ∧
          s.exchange.side = some .agreer ∧ s.exchange.target = none then
        endExchange (answerWritten x a source) .withdrawn none false
      else answerWritten x a source :=
  if_congr (by simp [displacesAgree, h, and_assoc]) rfl rfl

theorem writeAnswer_eq {s x : State} (place : x.service.answer = s.service.answer)
    (exchange : x.exchange = s.exchange) (a : Message) (source : AnswerSource) :
    writeAnswer x a source = answeredFrom s x a source := by
  have same : displacesAgree x ↔ displacesAgree s := by rw [displacesAgree, place, exchange]
  by_cases displaces : displacesAgree s
  · rw [answeredFrom, if_pos displaces, writeAnswer_of_displaces (same.2 displaces)]
  · rw [answeredFrom, if_neg displaces, writeAnswer_of_not_displaces (mt same.1 displaces)]

theorem peerWrite_keeps (s : State) (k : CellNo) (v : Word) :
    (peerWrite s k v).service = s.service ∧ (peerWrite s k v).exchange = s.exchange :=
  ⟨(ChannelStep.peerWrite s k v).service, (ChannelStep.peerWrite s k v).exchange⟩

section Auto
variable {s : State} {m : Message}

theorem autoOrder_foreign (foreign : ¬(m.target = 0#4 ∨ m.target = 15#4)) : autoOrder s m =
    (.foreign, writeAnswer s ⟨m.target, .order, 0#8, 0#16⟩ .other) := by
  refine if_pos ?_
  rw [Bool.not_eq_true', ← Bool.not_eq_true, targetsPeer_iff]
  exact foreign

theorem autoValue_foreign (foreign : ¬(m.target = 0#4 ∨ m.target = 15#4)) : autoValue s m =
    (.foreign, writeAnswer s ⟨m.target, .order, 0#8, 0#16⟩ .other) := by
  refine if_pos ?_
  rw [Bool.not_eq_true', ← Bool.not_eq_true, targetsPeer_iff]
  exact foreign

theorem autoValue_written (ours : m.target = 0#4 ∨ m.target = 15#4) {k : CellNo} (cell : m.code.toNat = k.val)
    (writable : s.settings.peerWritable.getLsbD k.val = true) : autoValue s m =
    (.executed, writeAnswer (peerWrite s k m.argument) m .other) := by
  refine (if_neg (by simpa using (targetsPeer_iff _).2 ours)).trans ?_
  rw [show cell? m.code = some k from fin?_eq_some cell]
  exact if_pos writable

theorem autoValue_declined (ours : m.target = 0#4 ∨ m.target = 15#4) (value : m.kind = .value)
    (shut : ∀ k : CellNo, m.code.toNat = k.val → s.settings.peerWritable.getLsbD k.val = false) :
    autoValue s m = (.declined, writeAnswer s ⟨m.target, .order, 0x06#8,
      m.code.setWidth 16 + 256#16⟩ .other) := by
  have declines : answerDecline s m = writeAnswer s ⟨m.target, .order, 0x06#8,
      m.code.setWidth 16 + 256#16⟩ .other := by
    rw [answerDecline, value]
    rfl
  refine (if_neg (by simpa using (targetsPeer_iff _).2 ours)).trans ?_
  rw [declines]
  split
  · rename_i k named
    have cell : m.code.toNat = k.val := by
      unfold cell? fin? at named
      split at named
      · cases named
        rfl
      · cases named
    exact if_neg (by rw [shut k cell]; decide)
  · rfl

theorem autoOrder_none (ours : m.target = 0#4 ∨ m.target = 15#4) (none : m.code = 0x00#8) :
    autoOrder s m = (.noted, s) :=
  (if_neg (by simpa using (targetsPeer_iff _).2 ours)).trans (if_pos none)

theorem autoOrder_decline (ours : m.target = 0#4 ∨ m.target = 15#4) (decline : m.code = 0x06#8) :
    autoOrder s m = (.noted, declineAwait s m.argument) :=
  (if_neg (by simpa using (targetsPeer_iff _).2 ours)).trans
    ((if_neg (by rw [decline]; decide)).trans (if_pos decline))

theorem autoOrder_maintenance (ours : m.target = 0#4 ∨ m.target = 15#4) (order : m.kind = .order)
    (named : m.code ≠ 0x00#8 ∧ m.code ≠ 0x06#8) : autoOrder s m =
    if maintenanceInRange m then (.executed, writeAnswer (maintenanceAction s m) m (echoSource m))
    else (.declined, writeAnswer s ⟨m.target, .order, 0x06#8, m.code.setWidth 16⟩ .other) := by
  have declines : answerDecline s m = writeAnswer s ⟨m.target, .order, 0x06#8, m.code.setWidth 16⟩ .other := by
    rw [answerDecline, order]
    rfl
  rw [← declines]
  exact (if_neg (by simpa using (targetsPeer_iff _).2 ours)).trans ((if_neg named.1).trans (if_neg named.2))

end Auto

theorem maintenanceInRange_iff (m : Message) : maintenanceInRange m = true ↔
    (m.code = 0x02#8 ∧ m.argument.toNat ≤ 23) ∨
      (m.code ∈ [0x01#8, 0x03#8, 0x04#8, 0x05#8] ∧ m.argument = 0#16) := by
  simp [maintenanceInRange, codeLoopSlot, codeLoopAll, codeSendBadChecks, codeExpectBadChecks, codeClearTests, or_assoc]

/-- What the maintenance row of the codes declines (R56). -/
theorem maintenance_refused {m : Message}
    (wrong : (m.code = 0x02#8 ∧ 23 < m.argument.toNat) ∨
      (m.code ∈ [0x01#8, 0x03#8, 0x04#8, 0x05#8] ∧ m.argument ≠ 0#16) ∨
      (0x06 < m.code.toNat ∧ m.code ∉ [0x10#8, 0x11#8, 0x12#8, 0x13#8])) :
    (m.code ≠ 0x00#8 ∧ m.code ≠ 0x06#8) ∧ ¬maintenanceInRange m = true := by
  rw [maintenanceInRange_iff]
  have low {c : Byte} (high : 0x06 < m.code.toNat) (hc : c.toNat ≤ 0x06) : m.code ≠ c := by
    intro same
    rw [same] at high
    omega
  rcases wrong with ⟨slot, beyond⟩ | ⟨code, argument⟩ | ⟨high, -⟩
  · rw [slot]
    refine ⟨by decide, ?_⟩
    rintro (⟨-, within⟩ | ⟨listed, -⟩)
    · omega
    · exact absurd listed (by decide)
  · simp only [List.mem_cons, List.not_mem_nil, or_false] at code
    have ne : m.code ≠ 0x02#8 := by rcases code with h | h | h | h <;> rw [h] <;> decide
    refine ⟨by rcases code with h | h | h | h <;> rw [h] <;> decide, ?_⟩
    rintro (⟨slot, -⟩ | ⟨-, zero⟩)
    · exact ne slot
    · exact argument zero
  · refine ⟨⟨low high (by decide), low high (by decide)⟩, ?_⟩
    rintro (⟨slot, -⟩ | ⟨listed, -⟩)
    · exact low high (by decide) slot
    · simp [low (c := 0x01#8) high (by decide), low (c := 0x03#8) high (by decide),
        low (c := 0x04#8) high (by decide), low (c := 0x05#8) high (by decide)] at listed

section Actions
variable (s : State) {m : Message}

theorem maintenanceAction_loopAll (code : m.code = 0x01#8) : maintenanceAction s m =
    { s with service := { s.service with loopSet := Vector.replicate 24 true } } := if_pos code

theorem maintenanceAction_loopSlot (code : m.code = 0x02#8) {i : SlotNo} (slot : m.argument.toNat = i.val) :
    maintenanceAction s m =
      { s with service := { s.service with loopSet := s.service.loopSet.set i.val true } } := by
  have low : (lowByte m.argument).toNat = i.val := by
    have := i.isLt
    rw [lowByte, BitVec.toNat_setWidth, slot]
    omega
  rw [maintenanceAction, if_neg (by rw [code]; decide), if_pos (show m.code = codeLoopSlot from code),
    show slot? (lowByte m.argument) = some i from fin?_eq_some low]
  rfl

theorem maintenanceAction_sendBad (code : m.code = 0x03#8) : maintenanceAction s m = s := by
  rw [maintenanceAction, if_neg (by rw [code]; decide), if_neg (by rw [code]; decide),
    if_neg (by rw [code]; decide), if_neg (by rw [code]; decide)]

theorem maintenanceAction_expectBad (code : m.code = 0x04#8) : maintenanceAction s m =
    { s with framer := { s.framer with checkBlind := true } } := by
  rw [maintenanceAction, if_neg (by rw [code]; decide), if_neg (by rw [code]; decide),
    if_pos (show m.code = codeExpectBadChecks from code)]
  rfl

theorem maintenanceAction_clear (code : m.code = 0x05#8) : maintenanceAction s m = { s with
    service := { s.service with loopSet := Vector.replicate 24 false, badStart := none }
    framer := { s.framer with badChecks := false, checkBlind := false } } := by
  rw [maintenanceAction, if_neg (by rw [code]; decide), if_neg (by rw [code]; decide),
    if_neg (by rw [code]; decide), if_pos (show m.code = codeClearTests from code)]
  rfl

theorem echoSource_other (code : m.code ≠ 0x03#8) : echoSource m = .other :=
  if_neg (by simp [codeSendBadChecks, code])

theorem echoSource_sendBad (order : m.kind = .order) (code : m.code = 0x03#8) :
    echoSource m = .badChecksEcho := if_pos (by simp [order, code, codeSendBadChecks])

end Actions

/-- Settles O60: the confirmation, then the disposal by the message and the mode, then the report. -/
theorem serviceConfirms : Obligations.ServiceConfirms := by
  intro s place cycle m t alike run u reported answered confirmed plan ours seen told
  have confirmed_iff : confirmed ↔ lookedAlike s m 2 ∧ s.service.lastConfirmed ≠ some m := Iff.rfl
  have seen_iff : filterAsks s m = true ↔ seen := filterAsks_iff s m
  have look : nextLook s.service.look m = run := rfl
  have uses : messageConfirmed s m = u := by rw [messageConfirmed, look]
  have answers (x : State) (a : Message) (source : AnswerSource) :
      answeredFrom s x a source = answered x a source := by
    change answeredFrom s x a source = match s.service.answer with
      | some old =>
        if old.source = .plan ∧ old.message.code = 0x11#8 ∧ s.exchange.state = .scheduled ∧
            s.exchange.side = some .agreer ∧ s.exchange.target = none then
          endExchange (answerWritten x a source) .withdrawn none false
        else answerWritten x a source
      | none => answerWritten x a source
    split
    · exact answeredFrom_some ‹_› ..
    · exact answeredFrom_none ‹_› ..
  have tells {d : Disposition} {x : State} (h : confirmed) (disposed : dispose u m = (d, x)) : t = told d x := by
    have received := positionReceived_confirmed cycle place h
    rw [uses, disposed] at received
    refine received.trans ?_
    exact if_congr (confirmationReported_iff s) rfl (if_congr seen_iff rfl rfl)
  have autos {d : Disposition} {x : State} (h : confirmed) (auto : s.settings.mode = .auto)
      (disposed : dispose u m = (d, x)) : t = reported d x := by
    refine (tells h disposed).trans (if_pos (.inl auto))
  refine ⟨fun h => ?unconfirmed, fun h => ⟨fun isPlan => ?_, fun other awaited => ?_, fun other fresh relay kept => ?_,
    fun other fresh relay order decline => ?_, fun other fresh auto => ?auto⟩⟩
  case unconfirmed =>
    have received := positionReceived_unconfirmed cycle place h
    rw [positionSeen, look] at received
    exact ⟨fun asked => received.trans (if_pos (seen_iff.2 asked)),
      fun unasked => received.trans (if_neg (mt seen_iff.1 unasked))⟩
  · exact tells h (dispose_plan (s := u) ((Message.isPlan_iff m).2 isPlan))
  · exact tells h (dispose_echo (s := u) (mt (Message.isPlan_iff m).1 other) awaited)
  · refine tells h ((dispose_relay (s := u) (mt (Message.isPlan_iff m).1 other) fresh relay).trans ?_)
    rw [if_neg fun decline => kept.elim (by simp [decline.1]) fun code => code decline.2]
  · refine tells h ((dispose_relay (s := u) (mt (Message.isPlan_iff m).1 other) fresh relay).trans ?_)
    rw [if_pos ⟨order, decline⟩, declineAwait_eq]
  case auto =>
    have plain := mt (Message.isPlan_iff m).1 other
    have target (x : State) (a : Message) (source : AnswerSource)
        (place : x.service.answer = s.service.answer := by rfl) (exchange : x.exchange = s.exchange := by rfl) :
        writeAnswer x a source = answered x a source := (writeAnswer_eq place exchange a source).trans (answers x a source)
    have orders (order : m.kind = .order) := dispose_order (s := u) plain fresh auto order
    have values (value : m.kind = .value) := dispose_value (s := u) plain fresh auto value
    have executes {x : State} {source : AnswerSource} (mine : ours) (order : m.kind = .order)
        (named : m.code ≠ 0x00#8 ∧ m.code ≠ 0x06#8) (inRange : maintenanceInRange m = true)
        (action : maintenanceAction u m = x) (echo : echoSource m = source)
        (place : x.service.answer = s.service.answer := by rfl) (exchange : x.exchange = s.exchange := by rfl) :
        t = reported .executed (answered x m source) := by
      rw [← target x m source place exchange]
      refine autos h auto ((orders order).trans ((autoOrder_maintenance mine order named).trans ?_))
      rw [if_pos inRange, action, echo]
    refine ⟨fun foreign => ?_, fun mine value k cell writable => ?_, fun mine value shut => ?_, fun mine order =>
      ⟨fun code => ?_, fun code => ?_, fun code zero => ?_, fun i code slot => ?_, fun code zero => ?_,
        fun code zero => ?_, fun code zero => ?_, fun wrong => ?_⟩⟩
    · rw [← target u]
      cases kind : m.kind with
      | order => exact autos h auto ((orders kind).trans (autoOrder_foreign foreign))
      | value => exact autos h auto ((values kind).trans (autoValue_foreign foreign))
    · obtain ⟨service, exchange⟩ := peerWrite_keeps u k m.argument
      rw [← target _ m .other (by rw [service]) exchange]
      exact autos h auto ((values value).trans (autoValue_written mine cell writable))
    · rw [← target u]
      exact autos h auto ((values value).trans (autoValue_declined mine value shut))
    · exact autos h auto ((orders order).trans (autoOrder_none mine code))
    · refine autos h auto ((orders order).trans ((autoOrder_decline mine code).trans ?_))
      rw [declineAwait_eq]
    · exact executes mine order (by rw [code]; decide) ((maintenanceInRange_iff m).2 (.inr ⟨by simp [code], zero⟩))
        (maintenanceAction_loopAll u code) (echoSource_other (by rw [code]; decide))
    · exact executes mine order (by rw [code]; decide)
        ((maintenanceInRange_iff m).2 (.inl ⟨code, by rw [slot]; exact Nat.le_of_lt_succ i.isLt⟩))
        (maintenanceAction_loopSlot u code slot) (echoSource_other (by rw [code]; decide))
    · exact executes mine order (by rw [code]; decide) ((maintenanceInRange_iff m).2 (.inr ⟨by simp [code], zero⟩))
        (maintenanceAction_sendBad u code) (echoSource_sendBad order code)
    · exact executes mine order (by rw [code]; decide) ((maintenanceInRange_iff m).2 (.inr ⟨by simp [code], zero⟩))
        (maintenanceAction_expectBad u code) (echoSource_other (by rw [code]; decide))
    · exact executes mine order (by rw [code]; decide) ((maintenanceInRange_iff m).2 (.inr ⟨by simp [code], zero⟩))
        (maintenanceAction_clear u code) (echoSource_other (by rw [code]; decide))
    · rw [← target u]
      obtain ⟨named, outside⟩ := maintenance_refused wrong
      refine autos h auto ((orders order).trans ((autoOrder_maintenance mine order named).trans ?_))
      exact if_neg outside

end Sys2Proof.Machine
end

section
/-! SUPPORT. What an entry into DOWN clears: the orders lost on the channels, the exchange, the service channel, the
framer and the link (R20, R40, R66, R69, R99, R131, R141). They settle O58. -/

namespace Sys2Proof.Machine

open Sys2Proof

/-! ## The end of a current order that is not counted -/

theorem State.raiseOwner_port (s : State) (o : Option Port) (e : Event) (p : Port) :
    (s.raiseOwner o e).port p = if o = some p then (s.port p).raise e else s.port p := by
  cases o with
  | none => simp [State.raiseOwner]
  | some q =>
    by_cases same : p = q
    · simp [State.raiseOwner, State.raise, same]
    · simp [State.raiseOwner, State.raise, same, Ne.symm same]

theorem recordEnd_port (s : State) (c : ChannelNo) (o : Order) (outcome : OrderOutcome) (p : Port) :
    (recordEnd s c o outcome).port p = if (s.channel c).owner = some p then
      (s.port p).complete (endRecord s c outcome o) else s.port p := by
  cases owner : (s.channel c).owner with
  | none => simp [recordEnd, owner]
  | some q =>
    rw [recordEnd_of_owned owner]
    by_cases same : p = q
    · simp [same]
    · simp [same, Ne.symm same]

/-- A port with one record more, or as it was. -/
def PortState.ends (q : PortState) : Option CompletionRecord → PortState
  | some r => q.complete r
  | none => q

theorem PortState.ends_frame (q : PortState) (r : Option CompletionRecord) : q.ends r = { q with
    completions := q.completions ++ r.toList, orderCount := q.orderCount - r.toList.length
    events := (q.ends r).events } := by
  cases r with
  | none => simp [PortState.ends]
  | some r => rfl

theorem PortState.ends_holds (q : PortState) (r : Option CompletionRecord) (e : Event) :
    (q.ends r).holds e = (q.holds e || (r.isSome && decide (e = .completion))) := by
  cases r with
  | none => simp [PortState.ends]
  | some r => exact (PortState.raise_holds _ _ e).trans (by rw [beq_eq_decide, Option.isSome_some, Bool.true_and]; rfl)

/-- An event raised when the condition holds. -/
def PortState.raiseIf (b : Bool) (e : Event) (q : PortState) : PortState := if b then q.raise e else q

theorem PortState.raiseIf_frame (b : Bool) (e : Event) (q : PortState) :
    q.raiseIf b e = { q with events := (q.raiseIf b e).events } := by
  cases b <;> rfl

theorem PortState.raiseIf_holds (b : Bool) (e f : Event) (q : PortState) :
    (q.raiseIf b e).holds f = (q.holds f || (b && decide (f = e))) := by
  cases b with
  | false => simp [PortState.raiseIf]
  | true => exact (PortState.raise_holds q e f).trans (by rw [beq_eq_decide, Bool.true_and])

/-- The record of the end of a channel's head order. -/
def headEnd (s : State) (c : ChannelNo) (outcome : OrderOutcome) : Option CompletionRecord :=
  (s.channel c).queue.head?.map (endRecord s c outcome)

theorem endHead_port_of_uncounted {outcome : OrderOutcome} (uncounted : ¬(outcome = .done ∨ outcome = .short))
    (s : State) (c : ChannelNo) (p : Port) : (endHead s c outcome).port p =
      if (s.channel c).owner = some p then (s.port p).ends (headEnd s c outcome) else s.port p := by
  unfold endHead headEnd
  split
  · rename_i empty
    simp [empty, PortState.ends]
  · rename_i o rest queue
    rw [countCompletion_of_quiet (.inl uncounted), recordEnd_port]
    simp [queue, PortState.ends, endRecord]

theorem endHead_cell_of_uncounted {outcome : OrderOutcome} (uncounted : ¬(outcome = .done ∨ outcome = .short))
    (s : State) (c : ChannelNo) (k : CellNo) : (endHead s c outcome).cell k = s.cell k := by
  unfold endHead recordEnd
  split
  · rfl
  · rw [countCompletion_of_quiet (.inl uncounted)]
    split <;> simp

/-! ## One channel at the entry into DOWN (R131, R141) -/

/-- A channel's record after the entry. -/
def Channel.downed (x : Channel) : Channel :=
  if x.state = .waiting ∨ x.state = .active then
    { x with state := .halted, halt := some .linkLost, queue := x.queue.tail, loopPause := false }
  else { x with loopPause := false }

/-- The channel has a current order and is the port's. -/
def Channel.currentOf (x : Channel) (p : Port) : Bool :=
  x.owner == some p && (x.state == .waiting || x.state == .active)

/-- The channel is the port's and stands in a loop pause. -/
def Channel.pausedOf (x : Channel) (p : Port) : Bool := x.owner == some p && x.loopPause

/-- The record of an order lost by the entry, for the port that owns its channel. -/
def lostRecord (s : State) (p : Port) (c : ChannelNo) : Option CompletionRecord :=
  if (s.channel c).currentOf p then headEnd s c .linkLost else none

/-- The events that the entry of the listed channels raises on a port. -/
def lostEvent (s : State) (p : Port) (l : List ChannelNo) : Event → Bool
  | .completion => !(l.filterMap (lostRecord s p)).isEmpty
  | .halted => l.any fun c => (s.channel c).currentOf p
  | .looped => l.any fun c => (s.channel c).pausedOf p
  | _ => false

/-- What the entry into DOWN has done to the listed channels. -/
structure ChannelsDowned (l : List ChannelNo) (s t : State) : Prop where
  step : ChannelStep s t
  channel : ∀ c, t.channel c = if c ∈ l then (s.channel c).downed else s.channel c
  values : ∀ k, (t.cell k).value = (s.cell k).value
  waiters : ∀ k, (t.cell k).waiters = (s.cell k).waiters.filter fun c =>
    !decide (c ∈ l ∧ WaitsOn (s.channel c) k)
  port : ∀ p, t.port p = { s.port p with
    completions := (s.port p).completions ++ l.filterMap (lostRecord s p)
    orderCount := (s.port p).orderCount - (l.filterMap (lostRecord s p)).length
    events := (t.port p).events }
  holds : ∀ p e, (t.port p).holds e = ((s.port p).holds e || lostEvent s p l e)

/-- The halt of a channel whose current order is lost. -/
theorem endAndHalt_linkLost_channel (s : State) (c d : ChannelNo) :
    (endAndHalt s c .linkLost .linkLost).channel d = if d = c then { s.channel c with
      state := .halted, halt := some .linkLost, queue := (s.channel c).queue.tail } else s.channel d := by
  have ended := endHead_channel_of_uncounted (r := .linkLost) (by decide) (by decide) (leaveIfWaiting s c)
  unfold endAndHalt haltChannel
  rw [State.raiseOwner_channel, State.setChannel_channel]
  by_cases same : d = c
  · simp [same, ended]
  · simp [same, ended]

theorem endAndHalt_linkLost_port (s : State) (c : ChannelNo) (p : Port) :
    (endAndHalt s c .linkLost .linkLost).port p = if (s.channel c).owner = some p then
      ((s.port p).ends (headEnd s c .linkLost)).raise .halted else s.port p := by
  have record : headEnd (leaveIfWaiting s c) c .linkLost = headEnd s c .linkLost := by
    unfold headEnd endRecord
    rw [leaveIfWaiting_channel, (ChannelStep.leaveIfWaiting s c).framer]
  unfold endAndHalt haltChannel
  rw [State.raiseOwner_port, endHead_channel_of_uncounted (by decide) (by decide), if_pos rfl,
    State.setChannel_port, endHead_port_of_uncounted (by decide), leaveIfWaiting_channel, leaveIfWaiting_port, record]
  split <;> rfl

theorem endAndHalt_linkLost_cell (s : State) (c : ChannelNo) (k : CellNo) :
    (endAndHalt s c .linkLost .linkLost).cell k = (leaveIfWaiting s c).cell k := by
  unfold endAndHalt haltChannel
  rw [State.raiseOwner_cell, State.setChannel_cell, endHead_cell_of_uncounted (by decide)]

theorem setLoopPause_channel (s : State) (c : ChannelNo) (b : Bool) (d : ChannelNo) :
    (setLoopPause s c b).channel d = if d = c then { s.channel c with loopPause := b } else s.channel d := by
  unfold setLoopPause
  split
  · rename_i stays
    split
    · rename_i same
      rw [same, ← stays]
    · rfl
  · rw [State.raiseOwner_channel, State.setChannel_channel]

theorem setLoopPause_port (s : State) (c : ChannelNo) (b : Bool) (p : Port) : (setLoopPause s c b).port p =
    if (s.channel c).owner = some p ∧ (s.channel c).loopPause ≠ b then (s.port p).raise .looped else s.port p := by
  unfold setLoopPause
  split
  · rename_i stays
    rw [if_neg fun h => h.2 stays]
  · rename_i changes
    rw [State.raiseOwner_port, State.setChannel_port]
    exact if_congr (and_iff_left changes).symm rfl rfl

theorem setLoopPause_cell (s : State) (c : ChannelNo) (b : Bool) (k : CellNo) :
    (setLoopPause s c b).cell k = s.cell k := by
  unfold setLoopPause
  split
  · rfl
  · rw [State.raiseOwner_cell, State.setChannel_cell]

/-- The halt that the entry makes of a current order, before the loop pause ends. -/
def currentLost (s : State) (c : ChannelNo) : State :=
  if (s.channel c).hasCurrent then endAndHalt s c .linkLost .linkLost else s

theorem channelDown_eq (s : State) (c : ChannelNo) :
    channelDown s c = setLoopPause (currentLost s c) c false := rfl

theorem Channel.hasCurrent_iff (x : Channel) : x.hasCurrent = true ↔ x.state = .waiting ∨ x.state = .active := by
  simp [Channel.hasCurrent]

theorem currentLost_channel (s : State) (c d : ChannelNo) : (currentLost s c).channel d =
    if d = c ∧ (s.channel c).hasCurrent = true then { s.channel c with
      state := .halted, halt := some .linkLost, queue := (s.channel c).queue.tail } else s.channel d := by
  unfold currentLost
  split
  · rename_i current
    rw [endAndHalt_linkLost_channel, current]
    simp
  · rename_i quiet
    rw [if_neg fun h => quiet h.2]

theorem currentLost_port (s : State) (c : ChannelNo) (p : Port) : (currentLost s c).port p =
    ((s.port p).ends (lostRecord s p c)).raiseIf ((s.channel c).currentOf p) .halted := by
  have current : (s.channel c).currentOf p = true ↔ (s.channel c).owner = some p ∧ (s.channel c).hasCurrent = true := by
    simp [Channel.currentOf, Channel.hasCurrent]
  unfold currentLost lostRecord PortState.raiseIf
  split
  · rename_i has
    rw [endAndHalt_linkLost_port]
    by_cases owner : (s.channel c).owner = some p
    · simp [current.2 ⟨owner, has⟩, owner]
    · rw [if_neg owner, if_neg fun h => owner (current.1 h).1, if_neg fun h => owner (current.1 h).1]
      rfl
  · rename_i none
    rw [if_neg fun h => none (current.1 h).2, if_neg fun h => none (current.1 h).2]
    rfl

/-- A channel without a current order waits on no cell, so its gate's waiters are as they were. -/
theorem currentLost_cell (s : State) (c : ChannelNo) (k : CellNo) :
    (currentLost s c).cell k = (leaveIfWaiting s c).cell k := by
  unfold currentLost
  split
  · exact endAndHalt_linkLost_cell s c k
  · rename_i none
    rw [leaveIfWaiting, if_neg fun waiting => none ((Channel.hasCurrent_iff _).2 (.inl waiting))]

theorem channelDown_channel (s : State) (c d : ChannelNo) :
    (channelDown s c).channel d = if d = c then (s.channel c).downed else s.channel d := by
  rw [channelDown_eq, setLoopPause_channel, currentLost_channel, currentLost_channel]
  by_cases same : d = c
  · simp only [same, if_true, true_and, Channel.downed, Channel.hasCurrent_iff]
    split <;> rfl
  · simp [same]

theorem channelDown_cell (s : State) (c : ChannelNo) (k : CellNo) :
    (channelDown s c).cell k = (leaveIfWaiting s c).cell k := by
  rw [channelDown_eq, setLoopPause_cell, currentLost_cell]

theorem channelDown_port (s : State) (c : ChannelNo) (p : Port) : (channelDown s c).port p =
    (((s.port p).ends (lostRecord s p c)).raiseIf ((s.channel c).currentOf p) .halted).raiseIf
      ((s.channel c).pausedOf p) .looped := by
  rw [channelDown_eq, setLoopPause_port, currentLost_port]
  refine if_congr ?_ rfl rfl
  rw [currentLost_channel]
  split <;> simp [Channel.pausedOf]

theorem channelsDowned_one (s : State) (c : ChannelNo) : ChannelsDowned [c] s (channelDown s c) := by
  refine ⟨ChannelStep.channelDown s c, fun d => ?_, fun k => ?_, fun k => ?_, fun p => ?_, fun p e => ?_⟩
  · rw [channelDown_channel]
    by_cases same : d = c <;> simp [same]
  · rw [channelDown_cell, leaveIfWaiting_value]
  · rw [channelDown_cell, leaveIfWaiting_waiters]
    split
    · rename_i waits
      refine List.filter_congr fun d _ => ?_
      by_cases same : d = c
      · simp [same, waits]
      · simp [same]
    · rename_i free
      refine (List.filter_eq_self.2 fun d _ => ?_).symm
      rw [Bool.not_eq_true', decide_eq_false_iff_not]
      rintro ⟨listed, waits⟩
      exact free (List.mem_singleton.1 listed ▸ waits)
  · have listed : [c].filterMap (lostRecord s p) = (lostRecord s p c).toList := by
      cases record : lostRecord s p c <;> simp [record]
    rw [listed, channelDown_port, PortState.raiseIf_frame, PortState.raiseIf_frame _ .halted, PortState.ends_frame]
  · have listed : [c].filterMap (lostRecord s p) = (lostRecord s p c).toList := by
      cases record : lostRecord s p c <;> simp [record]
    rw [channelDown_port, PortState.raiseIf_holds, PortState.raiseIf_holds, PortState.ends_holds]
    unfold lostEvent
    rw [listed]
    cases lostRecord s p c <;> cases e <;> simp

/-- The entry of one channel leaves what the others of a list lose as it was. -/
theorem lostRecord_channelDown {s : State} {c d : ChannelNo} (other : d ≠ c) (p : Port) :
    lostRecord (channelDown s c) p d = lostRecord s p d := by
  unfold lostRecord headEnd endRecord
  rw [channelDown_channel, if_neg other, (ChannelStep.channelDown s c).framer]

/-- One channel, then those of a list that does not name it. -/
theorem ChannelsDowned.cons {l : List ChannelNo} {s t : State} {c : ChannelNo} (fresh : c ∉ l)
    (h : ChannelsDowned l (channelDown s c) t) : ChannelsDowned (c :: l) s t := by
  have one := channelsDowned_one s c
  have kept {d : ChannelNo} (listed : d ∈ l) : (channelDown s c).channel d = s.channel d := by
    rw [channelDown_channel, if_neg fun same : d = c => fresh (same ▸ listed)]
  have records (p : Port) : (c :: l).filterMap (lostRecord s p) =
      [c].filterMap (lostRecord s p) ++ l.filterMap (lostRecord (channelDown s c) p) := by
    rw [← List.singleton_append, List.filterMap_append]
    refine congrArg (_ ++ ·) (List.filterMap_congr fun d listed => (lostRecord_channelDown ?_ p).symm)
    exact fun same : d = c => fresh (same ▸ listed)
  refine ⟨one.step.trans h.step, fun d => ?channel, fun k => (h.values k).trans (one.values k), fun k => ?waiters,
    fun p => ?port, fun p e => ?holds⟩
  case channel =>
    rw [h.channel, channelDown_channel]
    by_cases same : d = c
    · simp [same, fresh]
    · simp [same]
  case waiters =>
    rw [h.waiters, one.waiters, List.filter_filter]
    refine List.filter_congr fun d _ => ?_
    by_cases same : d = c
    · simp [same, fresh]
    · simp [channelDown_channel, same]
  case port =>
    rw [h.port, one.port, records]
    simp [Nat.sub_sub]
  case holds =>
    have any (f : Channel → Bool) : (c :: l).any (fun d => f (s.channel d)) =
        (f (s.channel c) || l.any fun d => f ((channelDown s c).channel d)) := by
      rw [List.any_cons]
      refine congrArg (_ || ·) (Bool.eq_iff_iff.2 ?_)
      simp only [List.any_eq_true]
      exact exists_congr fun d => and_congr_right fun listed => by rw [kept listed]
    rw [h.holds, one.holds, Bool.or_assoc]
    refine congrArg ((s.port p).holds e || ·) ?_
    unfold lostEvent
    cases e with
    | completion =>
      dsimp only
      rw [records]
      cases [c].filterMap (lostRecord s p) <;> simp
    | halted => simpa using (any (·.currentOf p)).symm
    | looped => simpa using (any (·.pausedOf p)).symm
    | _ => rfl

theorem ChannelsDowned.nil (s : State) : ChannelsDowned [] s s :=
  ⟨ChannelStep.refl s, fun _ => rfl, fun _ => rfl, fun k => by simp, fun p => by simp,
    fun p e => by cases e <;> simp [lostEvent]⟩

theorem channelsDowned_foldl {l : List ChannelNo} (distinct : l.Nodup) :
    ∀ s, ChannelsDowned l s (l.foldl channelDown s) := by
  induction distinct with
  | nil => exact ChannelsDowned.nil
  | cons fresh _ ih => exact fun s => (ih _).cons fun listed => fresh _ listed rfl

/-! ## The order of a step -/

theorem mem_channelOrder (order : ChannelOrder) (c : ChannelNo) : c ∈ channelOrder order := by
  by_cases named : c ∈ order.eraseDups
  · exact List.mem_append_left _ named
  · exact List.mem_append_right _ (List.mem_filter.2 ⟨List.mem_finRange c, by simpa using named⟩)

theorem eraseDups_nodup (n : Nat) : ∀ l : List ChannelNo, l.length ≤ n → l.eraseDups.Nodup := by
  induction n with
  | zero =>
    intro l short
    rw [List.eq_nil_of_length_eq_zero (Nat.le_zero.1 short)]
    exact List.nodup_nil
  | succ n ih =>
    intro l short
    cases l with
    | nil => exact List.nodup_nil
    | cons c l =>
      rw [List.eraseDups_cons]
      refine List.nodup_cons.2 ⟨fun again => ?_, ih _ ((List.length_filter_le ..).trans (Nat.le_of_succ_le_succ short))⟩
      simpa using (List.mem_filter.1 (List.mem_eraseDups.1 again)).2

theorem channelOrder_nodup (order : ChannelOrder) : (channelOrder order).Nodup := by
  refine List.Nodup.append ?_ ((List.nodup_finRange 8).filter _) fun c named rest => ?_
  · exact eraseDups_nodup _ order le_rfl
  · have := (List.mem_filter.1 rest).2
    simp_all

theorem channelsDowned (order : ChannelOrder) (s : State) :
    ChannelsDowned (channelOrder order) s (channelsDown order s) := channelsDowned_foldl (channelOrder_nodup order) s

/-! ## The other blocks (R20, R40, R66, R69, R99) -/

/-- The entry as the framer, the link, the service channel, the plan and the exchange take it, before the channels. -/
def trunkDown (s : State) : State :=
  exchangeDown (serviceDown { s with
    framer := s.framer.entersDown, link := s.link.entersDown, plan := s.plan.followActive })

theorem announceDown_eq (order : ChannelOrder) (s : State) :
    announceDown order s = channelsDown order (trunkDown s) := rfl

/-- The mismatch, the adoption and the mismatch run are cleared (R99). -/
def Exchange.calmed (x : Exchange) : Exchange := { x with mismatch := false, adopt := none, mismatchRun := 0 }

theorem exchangeDown_of_idle {s : State} (idle : s.exchange.state = .idle) :
    exchangeDown s = { s with exchange := s.exchange.calmed } := by
  have calm : s.exchange.inFlight = false := by rw [Exchange.inFlight, idle]; rfl
  unfold exchangeDown
  rw [calm]
  rfl

theorem exchangeDown_of_moving {s : State} (moving : s.exchange.state ≠ .idle) :
    exchangeDown s = { endExchange s .linkLost none false with
      exchange := (endExchange s .linkLost none false).exchange.calmed } := by
  have flight : s.exchange.inFlight = true := by simpa [Exchange.inFlight] using moving
  unfold exchangeDown
  rw [flight]
  rfl

theorem exchangeDown_frame (s : State) : exchangeDown s = { s with
    exchange := (exchangeDown s).exchange, service := (exchangeDown s).service
    plan := (exchangeDown s).plan, ports := (exchangeDown s).ports } := by
  by_cases idle : s.exchange.state = .idle
  · rw [exchangeDown_of_idle idle]
  · rw [exchangeDown_of_moving idle, endExchange_frame]

theorem exchangeDown_port (s : State) (p : Port) :
    (exchangeDown s).port p = (s.port p).raiseIf (s.exchange.state != .idle) .plan := by
  by_cases idle : s.exchange.state = .idle
  · rw [exchangeDown_of_idle idle, idle]
    rfl
  · rw [exchangeDown_of_moving idle, bne_iff_ne.2 idle]
    exact endExchange_port ..

theorem exchangeDown_service {s : State} (none : s.service.origin = []) :
    (exchangeDown s).service = s.service := by
  by_cases idle : s.exchange.state = .idle
  · rw [exchangeDown_of_idle idle]
  · rw [exchangeDown_of_moving idle]
    dsimp only
    rw [endExchange_service, none]
    split
    · exact congrArg (fun l => { s.service with origin := l }) none.symm
    · rfl

theorem exchangeDown_banks (s : State) : (exchangeDown s).plan.active = s.plan.active ∧
    (exchangeDown s).plan.activeTables = s.plan.activeTables ∧
    (exchangeDown s).plan.receive = s.plan.receive ∧ (exchangeDown s).plan.retained = s.plan.retained := by
  by_cases idle : s.exchange.state = .idle
  · rw [exchangeDown_of_idle idle]
    exact ⟨rfl, rfl, rfl, rfl⟩
  · rw [exchangeDown_of_moving idle]
    dsimp only
    rw [endExchange_plan]
    obtain ⟨tables, active, receive, retained⟩ := lockEndClear_active s
    exact ⟨active, tables, receive, retained⟩

theorem exchangeDown_exchange (s : State) : (exchangeDown s).exchange = { (exchangeDown s).exchange with
    state := .idle, mismatch := false, adopt := none, mismatchRun := 0
    last := if s.exchange.state = .idle then s.exchange.last
      else some ⟨.linkLost, none, s.exchange.requester, s.framer.cycle⟩ } := by
  by_cases idle : s.exchange.state = .idle
  · rw [exchangeDown_of_idle idle, if_pos idle, ← idle]
    rfl
  · rw [exchangeDown_of_moving idle, if_neg idle, endExchange_exchange]
    rfl

section Trunk
variable (s : State)

theorem trunkDown_channel (c : ChannelNo) : (trunkDown s).channel c = s.channel c := by
  rw [trunkDown, exchangeDown_frame]
  rfl

theorem trunkDown_cell (k : CellNo) : (trunkDown s).cell k = s.cell k := by
  rw [trunkDown, exchangeDown_frame]
  rfl

theorem trunkDown_port (p : Port) :
    (trunkDown s).port p = (s.port p).raiseIf (s.exchange.state != .idle) .plan := exchangeDown_port _ p

theorem trunkDown_framer : (trunkDown s).framer = s.framer.entersDown := by
  rw [trunkDown, exchangeDown_frame]
  rfl

theorem trunkDown_lostRecord (p : Port) (c : ChannelNo) :
    lostRecord (trunkDown s) p c = lostRecord s p c := by
  unfold lostRecord headEnd endRecord
  rw [trunkDown_channel, trunkDown_framer]
  rfl

end Trunk

theorem Link.demands_iff (l : Link) :
    l.demands = true ↔ l.claims.p1 = true ∨ l.claims.p2 = true ∨ l.claims.p3 = true := by
  simp [Link.demands, or_assoc]

/-- What is heard at the entry is answered or seen (R28). -/
theorem enterDown_eq (order : ChannelOrder) (s : State) : enterDown order s =
    if s.link.wakeHeard = true then
      if willAnswer s = true then enterAnswering (announceDown order s) else (announceDown order s).raiseAll .wakeSeen
    else announceDown order s := by
  have link := announceDown_link order s
  have settings : (announceDown order s).settings = s.settings := by
    rw [announceDown_eq, (ChannelStep.channelsDown ..).settings, trunkDown, exchangeDown_frame]
    rfl
  have willing : willAnswer (announceDown order s) = willAnswer s := by
    rw [willAnswer, settings, link]
    rfl
  unfold enterDown
  dsimp only
  rw [willing, link]
  rfl

theorem announceDown_channel (order : ChannelOrder) (s : State) (c : ChannelNo) :
    (announceDown order s).channel c = (s.channel c).downed := by
  rw [announceDown_eq, (channelsDowned order _).channel, if_pos (mem_channelOrder order c), trunkDown_channel]

theorem announceDown_port (order : ChannelOrder) (s : State) (p : Port) :
    (announceDown order s).port p = { s.port p with
      completions := (s.port p).completions ++ (channelOrder order).filterMap (lostRecord s p)
      orderCount := (s.port p).orderCount - ((channelOrder order).filterMap (lostRecord s p)).length
      events := ((announceDown order s).port p).events } := by
  have port := (channelsDowned order (trunkDown s)).port p
  rw [trunkDown_port, PortState.raiseIf_frame, List.filterMap_congr fun c _ => trunkDown_lostRecord s p c] at port
  exact port

theorem announceDown_holds (order : ChannelOrder) (s : State) (p : Port) (e : Event) :
    ((announceDown order s).port p).holds e = ((s.port p).holds e || match e with
      | .plan => s.exchange.state != .idle
      | e => lostEvent s p (channelOrder order) e) := by
  have same : lostEvent (trunkDown s) p (channelOrder order) e = lostEvent s p (channelOrder order) e := by
    unfold lostEvent
    rw [List.filterMap_congr fun c _ => trunkDown_lostRecord s p c]
    simp only [trunkDown_channel]
  rw [announceDown_eq, (channelsDowned order _).holds, same, trunkDown_port, PortState.raiseIf_holds, Bool.or_assoc]
  cases e <;> simp [lostEvent]

theorem channelOrder_any (order : ChannelOrder) (f : ChannelNo → Bool) :
    (channelOrder order).any f = (List.finRange 8).any f := by
  rw [Bool.eq_iff_iff]
  simp [mem_channelOrder]

/-- Settles O58: the trunk's blocks first, then the channels one after another in the order of the step. -/
theorem downEntryClears : Obligations.DownEntryClears := by
  intro order s t
  have down := channelsDowned order (trunkDown s)
  have step : ChannelStep (trunkDown s) t := down.step
  obtain ⟨active, tables, receive, retained⟩ := exchangeDown_banks (serviceDown { s with
    framer := s.framer.entersDown, link := s.link.entersDown, plan := s.plan.followActive })
  have exchange : t.exchange = _ := step.exchange.trans (exchangeDown_exchange _)
  have trunk : t.areas = s.areas ∧ t.pool = s.pool ∧ t.settings = s.settings := by
    rw [step.areas, step.pool, step.settings, trunkDown, exchangeDown_frame]
    exact ⟨rfl, rfl, rfl⟩
  obtain ⟨areas, pool, settings⟩ := trunk
  refine ⟨?framer, announceDown_link order s,
    step.service.trans (exchangeDown_service rfl), congrArg Exchange.state exchange,
    congrArg Exchange.mismatch exchange, congrArg Exchange.adopt exchange, congrArg Exchange.mismatchRun exchange,
    fun moving => ⟨?last, fun p => ?plan⟩, fun idle => ?kept,
    (congrArg SlotPlan.active step.plan).trans active, (congrArg SlotPlan.activeTables step.plan).trans tables,
    (congrArg SlotPlan.receive step.plan).trans receive, (congrArg SlotPlan.retained step.plan).trans retained,
    fun c current => ?current, fun c notWaiting notActive => ?quiet, fun k => ?value, areas, pool, settings,
    fun k => ?waiters, ?ports, ?enter⟩
  case framer =>
    have framer : t.framer = s.framer.entersDown := announceDown_framer order s
    rw [framer]
    rfl
  case plan =>
    rw [announceDown_holds]
    simpa using .inr moving
  case current => exact (announceDown_channel order s c).trans (if_pos current)
  case quiet => exact (announceDown_channel order s c).trans (if_neg (by simp [notWaiting, notActive]))
  case value => exact (down.values k).trans (by rw [trunkDown_cell])
  case waiters =>
    refine (down.waiters k).trans ?_
    rw [trunkDown_cell]
    refine List.filter_congr fun c _ => ?_
    rw [trunkDown_channel]
    simp [mem_channelOrder, WaitsOn, Channel.headGate, Bool.decide_and, beq_eq_decide]
  case ports =>
    intro p current ended
    refine ⟨announceDown_port order s p, fun e => (announceDown_holds order s p e).trans (congrArg _ ?_)⟩
    cases e with
    | halted => exact channelOrder_any order current
    | looped => exact channelOrder_any order _
    | _ => rfl
  case enter =>
    refine (enterDown_eq order s).trans (if_congr Iff.rfl (if_congr ?_ rfl rfl) rfl)
    exact (willAnswer_iff s).trans (or_congr Iff.rfl s.link.demands_iff)
  case last => exact (congrArg Exchange.last exchange).trans (if_neg moving)
  case kept => exact (congrArg Exchange.last exchange).trans (if_pos idle)

end Sys2Proof.Machine
end

section
/-! SUPPORT. The timers of the link controller and the limit of RESYNC (R26, R27, R29, R32, R39 to R41). They settle
O57. -/

namespace Sys2Proof.Machine

open Sys2Proof

/-! ## The entry into DOWN, as the link sees it (R28, R40) -/

/-- The state that an entry into DOWN ends in: a WAKE being heard is answered when this end is willing. -/
def Link.downOrAnswering (willing : Bool) (l : Link) : Link :=
  if l.wakeHeard && willing then { l.entersDown with state := .answering, toneTimer := some .answer } else l.entersDown

theorem enterDown_link (order : ChannelOrder) (s : State) :
    (enterDown order s).link = s.link.downOrAnswering (willAnswer s) := by
  have link := announceDown_link order s
  rw [enterDown_eq, Link.downOrAnswering]
  cases s.link.wakeHeard with
  | false => exact link
  | true =>
    cases willAnswer s with
    | false => exact link
    | true =>
      simp only [enterAnswering, setLine, if_true, link]
      rfl

/-- An entry into DOWN raises no LINK of its own; the steps that tell of it do (R41). -/
theorem enterDown_holds_link (order : ChannelOrder) (s : State) (p : Port) :
    ((enterDown order s).port p).holds .link = (s.port p).holds .link := by
  have announced : ((announceDown order s).port p).holds .link = (s.port p).holds .link := by
    rw [announceDown_holds]
    simp [lostEvent]
  rw [enterDown_eq]
  split
  · split
    · exact announced
    · rw [raiseAll_holds, announced]
      simp
  · exact announced

/-- What a fall into DOWN leaves of the link's items, for a try count and a reason set before it. -/
structure FellTo (s : State) (count : Nat) (reason : FailureReason) (l : Link) : Prop where
  state : l.state = if s.link.wakeHeard = true ∧ willAnswer s = true then .answering else .down
  count : l.tryCount = count
  reason : l.lastFailure = reason
  guard : l.quietGuard = true
  claims : l.claims = s.link.claims
  timer : l.tryTimer = s.link.tryTimer

theorem fellTo_enterDown (order : ChannelOrder) (s : State) (count : Nat) (reason : FailureReason) :
    FellTo s count reason
      (enterDown order { s with link := { s.link with tryCount := count, lastFailure := reason } }).link := by
  have willing : willAnswer { s with link := { s.link with tryCount := count, lastFailure := reason } } =
    willAnswer s := rfl
  rw [enterDown_link, willing]
  unfold Link.downOrAnswering
  split
  · rename_i answers
    exact ⟨(if_pos (by simpa using answers)).symm, rfl, rfl, rfl, rfl, rfl⟩
  · rename_i quiet
    exact ⟨(if_neg (by simpa using quiet)).symm, rfl, rfl, rfl, rfl, rfl⟩

/-! ## Tries that fail (R27, R32, R41) -/

theorem failTry_eq (order : ChannelOrder) (reason : Option FailureReason) (s : State) : failTry order reason s =
    let fell := enterDown order { s with link := { s.link with
      tryCount := min 5 (s.link.tryCount + 1)
      lastFailure := if 4 ≤ s.link.tryCount then .wakeFailed else reason.getD s.link.lastFailure } }
    if reason.isSome || decide (4 ≤ s.link.tryCount) then fell.raiseAll .link else fell := by
  have full : min 5 (s.link.tryCount + 1) = 5 ↔ 4 ≤ s.link.tryCount := by omega
  unfold failTry
  simp only [full]

/-! ## Tries that may begin (R26) -/

theorem Link.tryMayBegin_iff (l : Link) : l.tryMayBegin = true ↔ l.state = .down ∧
    (l.claims.p1 = true ∨ l.claims.p2 = true ∨ l.claims.p3 = true) ∧ l.quietGuard = false ∧ l.tryTimer = false ∧
      l.tryCount < 5 ∧ l.wakeHeard = false := by
  simp [Link.tryMayBegin, l.demands_iff, and_assoc]

theorem tryIfReady_eq (s : State) : tryIfReady s = if s.link.state = .down ∧
    (s.link.claims.p1 = true ∨ s.link.claims.p2 = true ∨ s.link.claims.p3 = true) ∧ s.link.quietGuard = false ∧
      s.link.tryTimer = false ∧ s.link.tryCount < 5 ∧ s.link.wakeHeard = false then beginTry s else s :=
  if_congr s.link.tryMayBegin_iff rfl rfl

/-- A timer's expiry is acted on in one state, while the timer runs. -/
theorem expiry_acts {s : State} {b c : Bool} {P Q : Prop} (state : b = true ↔ P) (timer : c = true ↔ Q)
    {f : State → State} :
    (P → Q → (if b && c then f s else s) = f s) ∧ (¬P ∨ ¬Q → (if b && c then f s else s) = s) := by
  rw [← state, ← timer]
  cases b <;> cases c <;> simp

/-- The limit of RESYNC is passed (R39). -/
theorem exec_resyncLimit_passed {order : ChannelOrder} {s : State} {n : Nat} (state : s.link.state = .resync)
    (count : s.link.resyncCount = some n) (passed : 39 ≤ n) :
    exec (.resyncLimit order) s = .next (resyncLost order s) := by
  change execResyncLimit order s = _
  simp only [execResyncLimit, state, count, if_pos passed]

theorem exec_resyncLimit_within {order : ChannelOrder} {s : State}
    (within : s.link.state ≠ .resync ∨ ∀ n, s.link.resyncCount = some n → n < 39) :
    exec (.resyncLimit order) s = .next s := by
  change execResyncLimit order s = _
  unfold execResyncLimit
  split
  · rename_i n state count
    rw [if_neg (Nat.not_le.2 ((within.resolve_left (absurd state)) n count))]
  · rfl

/-- Settles O57: the falls through one lemma on the entry into DOWN, the tries by their conditions. -/
theorem timersMoveLink : Obligations.TimersMoveLink := by
  intro order s demanded tried aligning fallen count failed
  have willing : willAnswer s = true ↔ s.settings.autoAnswer = true ∨ demanded :=
    (willAnswer_iff s).trans (or_congr Iff.rfl s.link.demands_iff)
  have falls (i : Instr) (n : Nat) (r : FailureReason) (tell : Bool)
      (h : exec i s = .next (if tell then
        (enterDown order { s with link := { s.link with tryCount := n, lastFailure := r } }).raiseAll .link
        else enterDown order { s with link := { s.link with tryCount := n, lastFailure := r } })) :
      fallen i n r tell := by
    obtain ⟨state, count, reason, guard, claims, timer⟩ := fellTo_enterDown order s n r
    have held (p : Port) := enterDown_holds_link order
      { s with link := { s.link with tryCount := n, lastFailure := r } } p
    refine ⟨_, h, rfl, ?_⟩
    rw [if_congr (and_congr_right fun _ => willing) rfl rfl] at state
    cases tell with
    | true =>
      refine ⟨state, count, reason, guard, claims, timer, fun _ p => ?_, fun untold => absurd untold (by decide)⟩
      rw [if_pos rfl, raiseAll_holds]
      simp
    | false => exact ⟨state, count, reason, guard, claims, timer, fun told => absurd told (by decide), fun _ => held⟩
  have failing (i : Instr) (own : Option FailureReason) (h : exec i s = .next (failTry order own s)) :
      fallen i count (failed (own.getD s.link.lastFailure)) (own.isSome || decide (4 ≤ s.link.tryCount)) :=
    falls i _ _ _ (h.trans (congrArg _ (failTry_eq order own s)))
  obtain ⟨waking, wakingElse⟩ := expiry_acts (s := s) (f := failTry order none) (beq_iff_eq (a := s.link.state))
    (beq_iff_eq (a := s.link.toneTimer) (b := some .wake))
  obtain ⟨aligned, alignedElse⟩ := expiry_acts (s := s) (f := failTry order (some .alignFailed))
    (beq_iff_eq (a := s.link.state) (b := .aligning)) (c := s.link.alignTimer) Iff.rfl
  refine ⟨?quiet, ?tries, ?answer, fun state timer => failing _ none (congrArg _ (waking state timer)),
    fun other => congrArg _ (wakingElse other),
    fun state timer => failing _ (some .alignFailed) (congrArg _ (aligned state timer)),
    fun other => congrArg _ (alignedElse (other.imp_right fun off => by simp [off])),
    fun n state n? passed => falls _ _ _ true (exec_resyncLimit_passed state n? passed),
    fun within => exec_resyncLimit_within within⟩
  case quiet => exact congrArg _ (if_congr Iff.rfl (tryIfReady_eq _) rfl)
  case tries => exact congrArg _ (if_congr Iff.rfl (tryIfReady_eq _) rfl)
  case answer => exact congrArg _ (if_congr (by simp) rfl rfl)

end Sys2Proof.Machine
end

section
/-! SUPPORT. The bytes a ring gives and takes in order, and the unit of an OUT channel (R103, R112, R128, R129, R131,
R181). They settle O54. -/

namespace Sys2Proof.Machine

open Sys2Proof

/-! ## Bytes taken from a ring (R103, R112) -/

@[simp] theorem State.setArea_setArea (s : State) (n : AreaNo) (a b : Area) :
    (s.setArea n a).setArea n b = s.setArea n b := by
  simp [State.setArea]

@[simp] theorem State.setArea_self (s : State) (n : AreaNo) : s.setArea n (s.area n) = s := by
  simp [State.setArea, State.area]

/-- The byte offset `j` places on from a position, in a ring of the area's size. -/
def Area.onward (a : Area) (pos j : Nat) : Nat := (pos + j) % a.size

theorem Area.onward_zero {a : Area} {pos : Nat} (h : pos < a.size) : a.onward pos 0 = pos := Nat.mod_eq_of_lt h

theorem Area.onward_advance {a : Area} {pos : Nat} (h : pos < a.size) (j : Nat) :
    a.onward (a.advance pos) j = a.onward pos (j + 1) := by
  rw [Area.onward, Area.advance_eq_mod h, Nat.mod_add_mod, Nat.add_assoc, Nat.add_comm 1]
  rfl

/-- The area after `k` removals. -/
def Area.drained (a : Area) (k : Nat) : Area := { a with readPos := a.onward a.readPos k, fill := a.fill - k }

theorem Area.drained_zero {a : Area} (h : a.readPos < a.size) : a.drained 0 = a := by
  rw [Area.drained, Area.onward_zero h]
  rfl

theorem Area.drained_removed {a : Area} (h : a.readPos < a.size) (k : Nat) :
    a.removed.drained k = a.drained (k + 1) := by
  have onward : a.removed.onward a.removed.readPos k = a.onward a.readPos (k + 1) := Area.onward_advance h k
  have fill : a.removed.fill - k = a.fill - (k + 1) := by
    exact (Nat.sub_sub ..).trans (by rw [Nat.add_comm])
  rw [Area.drained, Area.drained, onward, fill]
  rfl

theorem ringTake_eq (n : AreaNo) (k : Nat) : ∀ s : State, (s.area n).readPos < (s.area n).size →
    ringTake n k s = ((List.range k).map fun j =>
      Memory.read s.pool ((s.area n).address ((s.area n).onward (s.area n).readPos j)),
      s.setArea n ((s.area n).drained k)) := by
  induction k with
  | zero =>
    intro s within
    rw [Area.drained_zero within, State.setArea_self]
    rfl
  | succ k ih =>
    intro s within
    have area : (ringRemove s n).area n = (s.area n).removed := (State.setArea_area ..).trans (if_pos rfl)
    have next : ((ringRemove s n).area n).readPos < ((ringRemove s n).area n).size := by
      rw [area]
      exact Area.advance_lt within
    rw [ringTake, ih _ next, area, Area.drained_removed within]
    refine Prod.ext ?_ (State.setArea_setArea ..)
    rw [List.range_succ_eq_map, List.map_cons, List.map_map]
    refine congrArg₂ List.cons ?_ (List.map_congr_left fun j _ => ?_)
    · rw [Area.onward_zero within]
      rfl
    · exact congrArg (fun o => Memory.read s.pool ((s.area n).address o)) (Area.onward_advance within j)

/-- The removals of an outbound unit: an area without blocks holds nothing, so nothing is taken. -/
theorem ringTake_of_ring {s : State} {n : AreaNo} (ring : (s.area n).ringInRange) {k : Nat}
    (stored : k ≤ (s.area n).fill) : ringTake n k s = ((List.range k).map fun j =>
      Memory.read s.pool ((s.area n).address ((s.area n).onward (s.area n).readPos j)),
      s.setArea n ((s.area n).drained k)) := by
  obtain ⟨hf, hc⟩ | ⟨f, m, hf, hc⟩ := ring.blocks
  · obtain ⟨read, -, fill⟩ := (Area.ringInRange_of_none hf hc).1 ring
    have none : k = 0 := by omega
    subst none
    have still : (s.area n).onward (s.area n).readPos 0 = (s.area n).readPos := by simp [Area.onward, Area.size, hc]
    have same : (s.area n).drained 0 = s.area n := by rw [Area.drained, still, Nat.sub_zero]
    rw [same, State.setArea_self]
    rfl
  · obtain ⟨-, -, within, -⟩ := (Area.ringInRange_of_some hf hc).1 ring
    exact ringTake_eq n k s within

/-! ## The unit of an OUT channel (R128, R129, R181) -/

theorem slotCount_le (t : SlotTable) (c : ChannelNo) : slotCount t c ≤ 24 :=
  (List.length_filter_le ..).trans (by rw [List.length_finRange])

theorem namesChannel_iff_slotCount (t : SlotTable) (c : ChannelNo) : namesChannel t c = true ↔ 0 < slotCount t c := by
  rw [namesChannel_iff, slotCount, List.length_pos_iff_exists_mem]
  exact exists_congr fun i => mem_slotsOf.symm

theorem loopTouches_iff (s : State) (c : ChannelNo) : loopTouches s c = true ↔
    ∃ i : SlotNo, s.plan.activeTables.out[i.val] = some c ∧ s.service.loopSet[i.val] = true := by
  simp [loopTouches, mem_slotsOf]

theorem unitHeader_eq {k : Nat} (small : k < 128) (ends : Bool) :
    unitHeader k ends = byteOf (if ends = true then k + 128 else k) := by
  have all : ∀ (i : Fin 128) (b : Bool), unitHeader i.val b = byteOf (if b = true then i.val + 128 else i.val) := by
    decide
  exact all ⟨k, small⟩ ends

/-- The conditions of a unit (R129). -/
theorem formsUnit_iff (s : State) (c : ChannelNo) : formsUnit s c = true ↔
    s.link.state = .up ∧ s.exchange.mismatch = false ∧ (s.channel c).direction = some .out ∧
      (s.channel c).state = .active ∧ 0 < slotCount s.plan.activeTables.out c ∧
      ¬∃ i : SlotNo, s.plan.activeTables.out[i.val] = some c ∧ s.service.loopSet[i.val] = true := by
  rw [← loopTouches_iff, ← namesChannel_iff_slotCount]
  simp [formsUnit, and_assoc]

theorem formUnit_of_forms {s : State} {c : ChannelNo} {n : AreaNo} {o : Order} {rest : List Order}
    (forms : formsUnit s c = true) (area : (s.channel c).area = some n) (queue : (s.channel c).queue = o :: rest) :
    formUnit s c = takeUnit s c n o := by
  rw [formUnit, if_pos forms, area, queue]

theorem moveHead_of_queue {s : State} {c : ChannelNo} {o : Order} {rest : List Order}
    (queue : (s.channel c).queue = o :: rest) (k : Nat) : moveHead s c k =
      s.setChannel c { s.channel c with queue := { o with moved := o.moved + k } :: rest } := by
  rw [moveHead, queue]

/-! ## Loop pauses (R131) -/

theorem setLoopPause_changed {s : State} {c : ChannelNo} {p : Port} {b : Bool}
    (owner : (s.channel c).owner = some p) (changes : (s.channel c).loopPause ≠ b) :
    setLoopPause s c b = (s.setChannel c { s.channel c with loopPause := b }).raise p .looped := by
  rw [setLoopPause, if_neg changes, owner]
  rfl

/-- Settles O54: the unit by the removals of a ring, the pauses by the loop set. -/
theorem unitFormed : Obligations.UnitFormed := by
  refine ⟨?unit, fun c s unmet => ?none, ?pause⟩
  case unit =>
    intro c n o rest s rings out x a size place remaining k taken ends area queue direction active up calm slots silent
    have forms : formsUnit s c = true := (formsUnit_iff s c).2
      ⟨up, calm, direction, active, slots, fun ⟨i, named, looped⟩ => by simp [silent i named] at looped⟩
    have small : k < 128 := by
      have := slotCount_le out c
      omega
    have stored : k ≤ (s.area n).fill := (Nat.min_le_right ..).trans (Nat.min_le_left ..)
    have took := ringTake_of_ring (rings n) stored
    have bytes : (ringTake n k s).1 = (List.range k).map fun j => Memory.read s.pool (place j) := by rw [took]; rfl
    have moved : moveHead (ringTake n k s).2 c k = taken := by
      rw [took]
      exact moveHead_of_queue (s := s.setArea n ((s.area n).drained k)) queue k
    have finishes : (0 < k && remaining == k) = true ↔ ends := by simp [ends]
    have formed : formUnit s c = (unitHeader k (0 < k && remaining == k) :: (ringTake n k s).1,
      if (0 < k && remaining == k) = true then endAndAdvance (moveHead (ringTake n k s).2 c k) c .done
      else moveHead (ringTake n k s).2 c k) := formUnit_of_forms forms area queue
    rw [formed, moved, bytes, unitHeader_eq small]
    exact ⟨congrArg (byteOf · :: _) (if_congr finishes rfl rfl), fun going => if_neg (mt finishes.1 going),
      fun finished => if_pos (finishes.2 finished)⟩
  case none =>
    refine if_neg fun forms => ?_
    obtain ⟨up, calm, direction, active, slots, silent⟩ := (formsUnit_iff s c).1 forms
    rcases unmet with h | h | h | h | h | h
    · exact h up
    · simp [calm] at h
    · omega
    · exact silent h
    · exact h direction
    · exact h active
  case pause =>
    intro c p s looped out owner
    have updates : updateLoopPause s c = setLoopPause s c (loopTouches s c) := if_pos out
    rw [updates]
    refine ⟨fun loops off => ?_, fun free on => ?_, fun agrees => ?_⟩
    · rw [(loopTouches_iff s c).2 loops]
      exact setLoopPause_changed owner (by simp [off])
    · rw [Bool.eq_false_iff.2 (mt (loopTouches_iff s c).1 free)]
      exact setLoopPause_changed owner (by simp [on])
    · exact if_pos (Bool.eq_iff_iff.2 (agrees.symm.trans (loopTouches_iff s c).symm))

end Sys2Proof.Machine
end

section
/-! SUPPORT. The delivery of an inbound unit, and the bytes appended to a ring (R112, R133 to R137, R139, R181). They
settle O55. -/

namespace Sys2Proof.Machine

open Sys2Proof

/-! ## Bytes appended to a ring (R101, R103, R112) -/

theorem Area.address_eq (a : Area) (o : Nat) : a.address o = 64 * a.first.getD 0 + o := by
  unfold Area.address
  omega

/-- Fewer places than the ring has bytes are different places. -/
theorem Area.onward_ne {a : Area} {pos i j : Nat} (apart : i < j) (within : j < a.size) :
    a.onward pos i ≠ a.onward pos j := by
  intro same
  have congruent : i ≡ j [MOD a.size] := Nat.ModEq.add_left_cancel' pos same
  exact absurd (congruent.eq_of_lt_of_lt (apart.trans within) within) (Nat.ne_of_lt apart)

/-- The area after `k` appends. -/
def Area.extended (a : Area) (k : Nat) : Area := { a with writePos := a.onward a.writePos k, fill := a.fill + k }

/-- The pool address of the append that `j` others precede. -/
def Area.appendAddress (a : Area) (j : Nat) : Nat := a.address (a.onward a.writePos j)

theorem Area.extended_appended {a : Area} (h : a.writePos < a.size) (k : Nat) :
    a.appended.extended k = a.extended (k + 1) := by
  have onward : a.appended.onward a.appended.writePos k = a.onward a.writePos (k + 1) := Area.onward_advance h k
  have fill : a.appended.fill + k = a.fill + (k + 1) := (Nat.add_assoc ..).trans (by rw [Nat.add_comm 1])
  rw [Area.extended, Area.extended, onward, fill]
  rfl

theorem Area.appendAddress_appended {a : Area} (h : a.writePos < a.size) (j : Nat) :
    a.appended.appendAddress j = a.appendAddress (j + 1) :=
  congrArg a.address (Area.onward_advance h j)

theorem Area.appendAddress_ne {a : Area} {i j : Nat} (apart : i < j) (within : j < a.size) :
    a.appendAddress i ≠ a.appendAddress j := by
  rw [Area.appendAddress, Area.appendAddress, Area.address_eq, Area.address_eq]
  exact fun same => Area.onward_ne apart within (Nat.add_left_cancel same)

/-- A ring with blocks writes within its size (R103). -/
theorem Area.ringInRange.writes {a : Area} (h : a.ringInRange) (sized : 0 < a.size) : a.writePos < a.size := by
  obtain ⟨hf, hc⟩ | ⟨f, n, hf, hc⟩ := h.blocks
  · simp [Area.size, hc] at sized
  · obtain ⟨-, -, -, -, write⟩ := (Area.ringInRange_of_some hf hc).1 h
    rw [write]
    exact Nat.mod_lt _ sized

/-- What appending the bytes has done. -/
structure AppendedAll (n : AreaNo) (bytes : List Byte) (s t : State) : Prop where
  area : t.area n = (s.area n).extended bytes.length
  placed : ∀ j (h : j < bytes.length), Memory.read t.pool ((s.area n).appendAddress j) = bytes[j]
  others : ∀ x, (∀ j, j < bytes.length → x ≠ (s.area n).appendAddress j) →
    Memory.read t.pool x = Memory.read s.pool x
  frame : t = { s with pool := t.pool, areas := (s.setArea n (t.area n)).areas }

theorem appendedAll_nil {n : AreaNo} {s : State} (ring : (s.area n).ringInRange) : AppendedAll n [] s s := by
  have still : (s.area n).onward (s.area n).writePos 0 = (s.area n).writePos := by
    obtain ⟨hf, hc⟩ | ⟨f, k, hf, hc⟩ := ring.blocks
    · simp [Area.onward, Area.size, hc]
    · obtain ⟨some, -⟩ := (Area.ringInRange_of_some hf hc).1 ring
      exact Area.onward_zero (ring.writes (by simp only [Area.size, hc, Option.getD_some]; omega))
  refine ⟨?_, fun j h => absurd h (Nat.not_lt_zero j), fun _ _ => rfl, ?_⟩
  · rw [List.length_nil, Area.extended, still]
    rfl
  · rw [State.setArea_self]

theorem ringAppend_area_self (s : State) (n : AreaNo) (b : Byte) :
    (ringAppend s n b).area n = (s.area n).appended := (State.setArea_area ..).trans (if_pos rfl)

theorem appendedAll (n : AreaNo) (bytes : List Byte) : ∀ s : State, (s.area n).ringInRange → PoolCanonical s →
    (s.area n).fill + bytes.length ≤ (s.area n).size → AppendedAll n bytes s (ringAppendAll n bytes s) := by
  induction bytes with
  | nil => exact fun s ring _ _ => appendedAll_nil ring
  | cons b bytes ih =>
    intro s ring canonical room
    rw [List.length_cons] at room
    have within := ring.writes (by omega)
    have address : (s.area n).appendAddress 0 = (s.area n).address (s.area n).writePos := by
      rw [Area.appendAddress, Area.onward_zero within]
    have area := ringAppend_area_self s n b
    have pool (x : Nat) : Memory.read (ringAppend s n b).pool x =
        if (s.area n).appendAddress 0 = x then b else Memory.read s.pool x := by
      rw [address]
      exact Memory.read_write _ x b canonical (Area.address_lt ring within)
    have rest : AppendedAll n bytes (ringAppend s n b) (ringAppendAll n bytes (ringAppend s n b)) := by
      refine ih _ ?_ (Memory.write_wf _ _ canonical) ?_
      · rw [area]
        exact Area.ringInRange_appended ring (by rw [Area.free]; omega)
      · rw [area]
        change (s.area n).fill + 1 + bytes.length ≤ (s.area n).size
        omega
    obtain ⟨last, placed, others, frame⟩ := rest
    simp only [area, Area.appendAddress_appended within, Area.extended_appended within] at last placed others
    refine ⟨last, fun j h => ?_, fun x apart => ?_, ?_⟩
    · cases j with
      | zero =>
        refine (others _ fun i hi => Area.appendAddress_ne (Nat.succ_pos i) (by omega)).trans ?_
        rw [pool, if_pos rfl]
        rfl
      | succ j => exact placed j (Nat.lt_of_succ_lt_succ h)
    · rw [List.length_cons] at apart
      refine (others x fun i hi => apart (i + 1) (Nat.succ_lt_succ hi)).trans ?_
      rw [pool, if_neg (apart 0 (Nat.succ_pos _)).symm]
    · refine frame.trans ?_
      exact congrArg (fun areas => { s with pool := (ringAppendAll n bytes (ringAppend s n b)).pool, areas })
        (congrArg State.areas (State.setArea_setArea { s with pool := (ringAppend s n b).pool } n _ _))

/-! ## The end of an order, as the next round of a delivery meets it (R127, R134) -/

theorem endAndAdvance_owner (s : State) (c : ChannelNo) (r : OrderOutcome) (d : ChannelNo) :
    ((endAndAdvance s c r).channel d).owner = (s.channel d).owner := by
  refine ((QuietStep.becomeCurrent _ c).owner d).trans ?_
  unfold endHead
  split
  · rfl
  · rw [(QuietStep.countCompletion ..).owner, recordEnd_channel, State.setChannel_channel]
    split
    · rename_i same
      rw [same]
    · rfl

theorem endAndAdvance_length (s : State) (c : ChannelNo) (r : OrderOutcome) :
    ((endAndAdvance s c r).channel c).queue.length = (s.channel c).queue.tail.length := by
  refine ((QuietStep.becomeCurrent _ c).length c).trans ?_
  rw [endHead_queue, if_pos rfl]

theorem endAndAdvance_idle {s : State} {c : ChannelNo} (last : (s.channel c).queue.tail = []) (r : OrderOutcome) :
    ((endAndAdvance s c r).channel c).state = .idle := by
  rw [endAndAdvance, becomeCurrent_of_empty (by rw [endHead_queue, if_pos rfl, last])]
  simp [State.setChannelState]

/-! ## The rounds of a delivery (R134 to R137) -/

/-- The head order with `k` of the bytes appended to the channel's area. -/
def served (s : State) (c : ChannelNo) (n : AreaNo) (data : List Byte) (k : Nat) : State :=
  moveHead (ringAppendAll n (data.take k) s) c k

theorem served_eq {s : State} {c : ChannelNo} {o : Order} {rest : List Order} (n : AreaNo)
    (queue : (s.channel c).queue = o :: rest) (data : List Byte) (k : Nat) : served s c n data k =
      (ringAppendAll n (data.take k) s).setChannel c
        { s.channel c with queue := { o with moved := o.moved + k } :: rest } := by
  rw [served, moveHead_of_queue (o := o) (rest := rest) (by rw [ringAppendAll_channel, queue]), ringAppendAll_channel]

theorem deliverBytes_of_active {s : State} {c : ChannelNo} {n : AreaNo} {o : Order} {rest : List Order}
    (active : (s.channel c).state = .active) (area : (s.channel c).area = some n)
    (queue : (s.channel c).queue = o :: rest) (mark : Bool) (fuel : Nat) (data : List Byte) :
    deliverBytes c mark (fuel + 1) data s =
      let share := min data.length o.remaining
      if (s.area n).free < share then endAndHalt (served s c n data (s.area n).free) c .overrun .overrun
      else if o.remaining = share then
        if (data.drop share).isEmpty then endAndAdvance (served s c n data share) c .done
        else deliverBytes c mark fuel (data.drop share) (endAndAdvance (served s c n data share) c .done)
      else if mark then endAndAdvance (served s c n data share) c .short else served s c n data share := by
  rw [deliverBytes, active, area, queue]
  rfl

theorem deliverBytes_of_quiet {s : State} {c : ChannelNo} {p : Port} (quiet : (s.channel c).state ≠ .active)
    (owner : (s.channel c).owner = some p) (mark : Bool) (fuel : Nat) (data : List Byte) :
    deliverBytes c mark (fuel + 1) data s = if data = [] then s else s.raise p .unclaimed := by
  rw [deliverBytes]
  split
  · exact absurd ‹_› quiet
  · rw [owner]
    exact if_congr List.isEmpty_iff rfl rfl

theorem deliverUnit_bad {s : State} {c : ChannelNo} {p : Port} (owner : (s.channel c).owner = some p) {header : Byte}
    {data : List Byte} (short : data.length < headerCount header) :
    deliverUnit s c (header :: data) = s.raise p .badUnit := by
  rw [deliverUnit, owner]
  exact if_pos short

theorem deliverUnit_good {s : State} {c : ChannelNo} {header : Byte} {data : List Byte}
    (enough : headerCount header ≤ data.length) : deliverUnit s c (header :: data) =
      deliverBytes c header.msb ((s.channel c).queue.length + 1) (data.take (headerCount header)) s :=
  if_neg (Nat.not_lt.2 enough)

/-- The unit whose count and END mark a header byte tells (R181). -/
theorem header_split {m : Nat} (small : m < 128) (ends : Bool) :
    headerCount (byteOf (m + if ends = true then 128 else 0)) = m ∧
      (byteOf (m + if ends = true then 128 else 0)).msb = ends := by
  have all : ∀ (i : Fin 128) (b : Bool), headerCount (byteOf (i.val + if b = true then 128 else 0)) = i.val ∧
      (byteOf (i.val + if b = true then 128 else 0)).msb = b := by decide
  exact all ⟨m, small⟩ ends

theorem headerCount_lt (b : Byte) : headerCount b < 128 := by
  revert b
  decide

/-- The share of a round is taken from the front of the unit's bytes. -/
theorem served_take (s : State) (c : ChannelNo) (n : AreaNo) (data : List Byte) {k count : Nat} (h : k ≤ count) :
    served s c n (data.take count) k = served s c n data k := by
  rw [served, List.take_take, Nat.min_eq_left h]
  rfl

/-- A good unit for a channel with an ACTIVE order: the first round, whose share is the least of the count and the
order's remaining bytes. -/
theorem deliverUnit_of_active {s : State} {c : ChannelNo} {n : AreaNo} {o : Order} {rest : List Order} {header : Byte}
    {data : List Byte} (enough : headerCount header ≤ data.length) (active : (s.channel c).state = .active)
    (area : (s.channel c).area = some n) (queue : (s.channel c).queue = o :: rest) :
    deliverUnit s c (header :: data) =
      let share := min (headerCount header) o.remaining
      if (s.area n).free < share then endAndHalt (served s c n data (s.area n).free) c .overrun .overrun
      else if o.remaining = share then
        if headerCount header = share then endAndAdvance (served s c n data share) c .done
        else deliverBytes c header.msb (rest.length + 1) ((data.drop share).take (headerCount header - share))
          (endAndAdvance (served s c n data share) c .done)
      else if header.msb then endAndAdvance (served s c n data share) c .short else served s c n data share := by
  have length : (data.take (headerCount header)).length = headerCount header := by
    rw [List.length_take, Nat.min_eq_left enough]
  have least : min (headerCount header) o.remaining ≤ headerCount header := Nat.min_le_left ..
  rw [deliverUnit_good enough, deliverBytes_of_active active area queue, length, queue]
  dsimp only
  rw [served_take s c n data least, List.drop_take]
  by_cases full : (s.area n).free < min (headerCount header) o.remaining
  · rw [if_pos full, if_pos full, served_take s c n data (full.le.trans least)]
  · rw [if_neg full, if_neg full]
    refine if_congr Iff.rfl (if_congr ?_ rfl rfl) rfl
    rw [List.isEmpty_iff, ← List.length_eq_zero_iff, List.length_take, List.length_drop]
    omega

/-- What an order leaves of a unit is delivered as a unit of the bytes left, with the same END mark. -/
theorem deliverUnit_rest {s : State} {c : ChannelNo} {left : Nat} {data : List Byte} (small : left < 128)
    (enough : left ≤ data.length) (ends : Bool) :
    deliverUnit s c (byteOf (left + if ends = true then 128 else 0) :: data) =
      deliverBytes c ends ((s.channel c).queue.length + 1) (data.take left) s := by
  obtain ⟨count, mark⟩ := header_split small ends
  rw [deliverUnit_good (by rw [count]; exact enough), count, mark]

/-- Settles O55: a round of the delivery by its first order, the rest as a unit of its own; the ring byte by byte. -/
theorem deliveryServesOrders : Obligations.DeliveryServesOrders := by
  refine ⟨?unit, ?channel, ?ring⟩
  case unit =>
    intro c p header data s x count owner
    refine ⟨deliverUnit_bad owner, fun enough quiet => ?quiet, ?active⟩
    case quiet =>
      rw [deliverUnit_good enough, deliverBytes_of_quiet quiet owner]
      refine if_congr ?_ rfl rfl
      rw [← List.length_eq_zero_iff, List.length_take]
      exact iff_of_eq (congrArg (· = 0) (Nat.min_eq_left enough))
    case active =>
      intro n o rest enough active area queue free remaining moved
      have move (k : Nat) : served s c n data k = moved k := served_eq n queue data k
      have small : count < 128 := headerCount_lt header
      have unit : deliverUnit s c (header :: data) =
          if free < min count remaining then endAndHalt (moved free) c .overrun .overrun
          else if remaining = min count remaining then
            if count = min count remaining then endAndAdvance (moved (min count remaining)) c .done
            else deliverBytes c header.msb (rest.length + 1)
              ((data.drop (min count remaining)).take (count - min count remaining))
              (endAndAdvance (moved (min count remaining)) c .done)
          else if header.msb = true then endAndAdvance (moved (min count remaining)) c .short
          else moved (min count remaining) := by
        rw [← move, ← move]
        exact deliverUnit_of_active enough active area queue
      have unfilled (fits : min count remaining ≤ free) (fewer : count < remaining) : deliverUnit s c (header :: data) =
          if header.msb = true then endAndAdvance (moved count) c .short else moved count := by
        rw [unit, if_neg (Nat.not_lt.2 fits), Nat.min_eq_left fewer.le, if_neg fewer.ne']
      have goesOn (fits : remaining ≤ free) (more : remaining < count) : deliverUnit s c (header :: data) =
          deliverBytes c header.msb (rest.length + 1) ((data.drop remaining).take (count - remaining))
            (endAndAdvance (moved remaining) c .done) := by
        rw [unit, Nat.min_eq_right more.le, if_neg (Nat.not_lt.2 fits), if_pos rfl, if_neg more.ne']
      have queued : ((moved remaining).channel c).queue.tail = rest := by simp [moved]
      refine ⟨fun full => unit.trans (if_pos full), fun fits fewer unmarked => ?_, fun fits fewer mark => ?_,
        fun fits filled => ?_, fun fits more last => ?_, fun fits more => ?_⟩
      · rw [unfilled fits fewer, unmarked]
        rfl
      · rw [unfilled fits fewer, mark]
        rfl
      · rw [unit, ← filled, Nat.min_self, if_neg (Nat.not_lt.2 fits), if_pos rfl, if_pos rfl]
      · have idle := endAndAdvance_idle (queued.trans last) .done
        have mine : ((endAndAdvance (moved remaining) c .done).channel c).owner = some p := by
          rw [endAndAdvance_owner]
          simpa [moved] using owner
        rw [goesOn fits more, deliverBytes_of_quiet (by rw [idle]; decide) mine]
        refine if_neg fun none => ?_
        have length := congrArg List.length none
        rw [List.length_take, List.length_drop, List.length_nil] at length
        omega
      · rw [goesOn fits more, deliverUnit_rest (by omega) (by rw [List.length_drop]; omega), endAndAdvance_length, queued]
  case channel =>
    intro payload c s inn
    refine ⟨fun inbound => (if_pos inbound).trans ?_, fun other => if_neg other⟩
    have table : s.plan.receiveTable = inn := by
      cases retained : s.plan.retained <;> simp [SlotPlan.receiveTable, inn, retained]
    have slots : slotsOf inn c = (List.finRange 24).filter fun i => inn[i.val] = some c :=
      List.filter_congr fun i _ => beq_eq_decide ..
    rw [table, unitBytes, slots]
    rfl
  case ring =>
    intro n bytes s rings canonical a size place room t
    obtain ⟨area, placed, others, frame⟩ := appendedAll n bytes s (rings n) canonical room
    exact ⟨area, placed, others, frame⟩

end Sys2Proof.Machine
end

section
/-! SUPPORT. The outbound frame that begins: the position boundary, the service byte's part, the channels' part and the
line (R1, R3, R7, R46, R47, R128, R131). -/

namespace Sys2Proof.Machine

open Sys2Proof

/-! ## The position boundary (R46, R47) -/

theorem moveAnswer_frame (s : State) (a : Answer) : moveAnswer s a = { s with
    service := (moveAnswer s a).service, exchange := (moveAnswer s a).exchange } := by
  unfold moveAnswer
  dsimp only
  split
  · split
    · rw [agreeEntered_eq]
      rfl
    · rfl
  · rw [beginBadStart_eq]
    rfl
  · rfl

theorem chooseMessage_frame (s : State) : chooseMessage s = { s with
    service := (chooseMessage s).service, exchange := (chooseMessage s).exchange } := by
  unfold chooseMessage
  split
  · rfl
  · split
    · exact moveAnswer_frame ..
    · split
      · unfold moveOrigin
        split <;> rfl
      · rfl

theorem positionBoundary_frame (s : State) : positionBoundary s = { s with
    service := (positionBoundary s).service, exchange := (positionBoundary s).exchange } := by
  rw [positionBoundary_eq, positionCounted, chooseMessage_frame]

/-- Frames are sent in a state or not by its link state, its role and its framing (R2). -/
theorem framesSent_congr {s t : State} (state : t.link.state = s.link.state) (role : t.framer.role = s.framer.role)
    (framed : t.framer.framed = s.framer.framed) : framesSent t = framesSent s := by
  unfold framesSent
  rw [state, role, framed]

/-- The position carries what the slot holds (R7, R46). -/
def positionPlaced (s : State) : State :=
  { s with framer := { s.framer with positionMessage := s.service.slot } }

/-- A position boundary, with the position's message taken from the slot. -/
def positionBegun (s : State) : State := { s with
  service := (positionBoundary s).service, exchange := (positionBoundary s).exchange
  framer := { s.framer with positionMessage := (positionBoundary s).service.slot } }

theorem beginPosition_of_sent {s : State} (sent : framesSent s = true) : beginPosition s = positionBegun s := by
  have placed : beginPosition s = positionPlaced (positionBoundary s) := by
    unfold beginPosition
    rw [if_pos sent]
    rfl
  exact placed.trans (congrArg positionPlaced (positionBoundary_frame s))

theorem beginPosition_of_unsent {s : State} (unsent : framesSent s = false) :
    beginPosition s = { s with framer := { s.framer with positionMessage := s.service.slot } } := by
  unfold beginPosition
  rw [if_neg (by simp [unsent])]

/-! ## The service byte's part (R7, R8, R10) -/

theorem beginService_zero_of_sent {s : State} (sent : framesSent s = true) :
    beginService 0 s = positionBegun (beginOutCheck s) := by
  have begun : beginService 0 s = beginPosition (if framesSent s then beginOutCheck s else s) := rfl
  rw [begun, if_pos sent]
  exact beginPosition_of_sent (s := beginOutCheck s) sent

theorem beginService_zero_of_unsent {s : State} (unsent : framesSent s = false) :
    beginService 0 s = { s with framer := { s.framer with positionMessage := s.service.slot } } := by
  have begun : beginService 0 s = beginPosition (if framesSent s then beginOutCheck s else s) := rfl
  rw [begun, if_neg (Bool.eq_false_iff.1 unsent)]
  exact beginPosition_of_unsent unsent

theorem beginService_six (s : State) : beginService 6 s = beginPosition s := rfl

theorem beginService_four (s : State) : beginService 4 s = composeStatus s := rfl

theorem beginService_five (s : State) : beginService 5 s = if framesSent s then statusSent s else s := rfl

theorem beginService_ten (s : State) : beginService 10 s = readCheckField s := rfl

/-- The other frames settle nothing before their payload. -/
theorem beginService_of_plain {f : FrameNo} (plain : f ≠ 0 ∧ f ≠ 4 ∧ f ≠ 5 ∧ f ≠ 6 ∧ f ≠ 10) (s : State) :
    beginService f s = s := by
  have value (n : FrameNo) (h : f ≠ n) : ¬f.val = n.val := fun same => h (Fin.ext same)
  obtain ⟨zero, four, five, six, ten⟩ := plain
  exact (if_neg (value 0 zero)).trans ((if_neg (value 4 four)).trans ((if_neg (value 5 five)).trans
    ((if_neg (value 6 six)).trans (if_neg (value 10 ten)))))

/-! ## The channels' part (R128, R131) -/

/-- The state that a frame's units are formed from. -/
def frameSettled (f : FrameNo) (s : State) : State := updateLoopPauses (beginService f s)

/-- The units of the frame, and the state after them. -/
def frameUnits (order : ChannelOrder) (f : FrameNo) (s : State) : FrameUnits × State :=
  formUnits (channelOrder order) (Vector.replicate 8 [], frameSettled f s)

theorem frameSettled_step (f : FrameNo) (s : State) : ChannelStep (beginService f s) (frameSettled f s) :=
  ChannelStep.updateLoopPauses _

theorem frameUnits_step (order : ChannelOrder) (f : FrameNo) (s : State) :
    TransferStep (frameSettled f s) (frameUnits order f s).2 := TransferStep.formUnits ..

theorem frameUnits_framer (order : ChannelOrder) (f : FrameNo) (s : State) :
    (frameUnits order f s).2.framer = (beginService f s).framer :=
  (frameUnits_step order f s).framer.trans (frameSettled_step f s).framer

theorem frameUnits_link (order : ChannelOrder) (f : FrameNo) (s : State) :
    (frameUnits order f s).2.link = (beginService f s).link :=
  (frameUnits_step order f s).link.trans (frameSettled_step f s).link

theorem framesSent_frameUnits (order : ChannelOrder) (f : FrameNo) (s : State) :
    framesSent (frameUnits order f s).2 = framesSent (beginService f s) := by
  refine framesSent_congr ?_ ?_ ?_
  · rw [frameUnits_link]
  · rw [frameUnits_framer]
  · rw [frameUnits_framer]

/-- The frame's payload, as the units and the loops have it. -/
def framePayload (order : ChannelOrder) (f : FrameNo) (s : State) : Payload :=
  outboundPayload (frameUnits order f s).2 (frameUnits order f s).1

theorem beginFrame_of_sent {order : ChannelOrder} {f : FrameNo} {s : State}
    (sent : framesSent (beginService f s) = true) :
    beginFrame order f s = sendFrame f (framePayload order f s) (frameUnits order f s).2 :=
  if_pos ((framesSent_frameUnits order f s).trans sent)

theorem beginFrame_of_unsent {order : ChannelOrder} {f : FrameNo} {s : State}
    (unsent : framesSent (beginService f s) = false) : beginFrame order f s = (frameUnits order f s).2 :=
  if_neg (Bool.eq_false_iff.1 ((framesSent_frameUnits order f s).trans unsent))

/-- The framer after a frame that goes out. -/
theorem beginFrame_framer_of_sent {order : ChannelOrder} {f : FrameNo} {s : State}
    (sent : framesSent (beginService f s) = true) : (beginFrame order f s).framer = { (beginService f s).framer with
      line := .frame (markerOf f) (framePayload order f s) ((beginService f s).framer.serviceByte f)
      outCheck := (beginService f s).framer.outCheck.map
        (checkFrame f (framePayload order f s) ((beginService f s).framer.serviceByte f)) } := by
  rw [beginFrame_of_sent sent, sendFrame]
  dsimp only
  rw [frameUnits_framer]

theorem beginFrame_link (order : ChannelOrder) (f : FrameNo) (s : State) :
    (beginFrame order f s).link = (beginService f s).link := by
  cases sent : framesSent (beginService f s) with
  | false => rw [beginFrame_of_unsent sent, frameUnits_link]
  | true => exact (congrArg State.link (beginFrame_of_sent sent)).trans (frameUnits_link order f s)

end Sys2Proof.Machine
end

section
/-! SUPPORT. The bits of a frame and the byte found among them, the tone detector's reports and the places of the hunt
(R25 to R31, R182, R183). They settle O56. -/

namespace Sys2Proof.Machine

open Sys2Proof

/-! ## The bits of a frame (R182, R183) -/

theorem byteBits_eq (b : Byte) : byteBits b = lineBits b := rfl

theorem frameBits_eq (marker : Byte) (payload : Payload) (service : Byte) : frameBits marker payload service =
    lineBits marker ++ payload.toList.flatMap lineBits ++ lineBits service ++ List.replicate 240 true := by
  unfold frameBits
  rw [funext byteBits_eq, List.cons_append, List.flatMap_cons, List.flatMap_append, List.flatMap_singleton]
  simp only [List.append_assoc]

theorem frameBits_length (marker : Byte) (payload : Payload) (service : Byte) :
    (frameBits marker payload service).length = 1024 := by
  rw [frameBits_eq, List.length_append, List.length_append, List.length_append, length_lines, List.length_replicate,
    Vector.length_toList]
  rfl

/-! ## The byte that an unframed receiver finds (R183) -/

theorem findByteAfter_ones (l : List Bool) (k : Nat) :
    ∀ n, findByteAfter n (List.replicate k true ++ l) = findByteAfter (n + k) l := by
  induction k with
  | zero => exact fun n => rfl
  | succ k ih =>
    intro n
    rw [List.replicate_succ, List.cons_append, findByteAfter, ih, Nat.add_right_comm, Nat.add_assoc]

/-- Fewer than eight bits hold no byte. -/
theorem findByteAfter_short (l : List Bool) : ∀ n, l.length < 8 → findByteAfter n l = none := by
  induction l with
  | nil => exact fun _ _ => rfl
  | cons b l ih =>
    intro n short
    rw [List.length_cons] at short
    cases b with
    | true => exact ih _ (by omega)
    | false =>
      rw [findByteAfter]
      split
      · exact ih _ (by omega)
      · exact if_pos (by omega)

/-- A byte whose first bit is a zero, after enough ones. -/
theorem findByteAfter_byte {n : Nat} (ones : 64 ≤ n) {b : Byte} (first : b.msb = false) (rest : List Bool) :
    findByteAfter n (lineBits b ++ rest) = some b := by
  have zero : b.getLsbD 7 = false := by rwa [BitVec.msb_eq_getLsbD_last] at first
  have enough : ¬n < gapBits := Nat.not_lt.2 ones
  have bits := bitsByte_lineBits b
  unfold lineBits at bits ⊢
  rw [zero] at bits ⊢
  rw [List.cons_append, findByteAfter, if_neg enough, if_neg (by simp)]
  exact congrArg some bits

theorem lineBits_bitsByte {l : List Bool} (length : l.length = 8) : lineBits (bitsByte l) = l := by
  have all : ∀ a b c d e f g h : Bool, lineBits (bitsByte [a, b, c, d, e, f, g, h]) = [a, b, c, d, e, f, g, h] := by
    decide
  match l, length with
  | [a, b, c, d, e, f, g, h], _ => exact all a b c d e f g h

/-- Three runs of a list, one after another, and what follows. -/
theorem runs_append (l : List Bool) (a b c : Nat) :
    l.take a ++ (l.drop a).take b ++ (l.drop (a + b)).take c ++ l.drop (a + b + c) = l := by
  rw [List.append_assoc, List.append_assoc, ← List.drop_drop (i := c), List.take_append_drop, ← List.drop_drop (i := b),
    List.take_append_drop, List.take_append_drop]

theorem byteAt_eq (a : Nat) (bits : List Bool) : byteAt (a + 64) bits =
    if ((bits.drop a).take 64).all id && ((bits.drop (a + 64)).take 8).length == 8
      && ((bits.drop (a + 64)).take 8).head? == some false then some (bitsByte ((bits.drop (a + 64)).take 8))
    else none := by
  have deep : decide (gapBits ≤ a + 64) = true := decide_eq_true (Nat.le_add_left 64 a)
  unfold byteAt
  rw [deep, Bool.true_and]
  rfl

theorem byteAt_iff (n : Nat) (bits : List Bool) (b : Byte) : byteAt n bits = some b ↔
    b.msb = false ∧ ∃ before after,
      bits = before ++ List.replicate 64 true ++ lineBits b ++ after ∧ before.length + 64 = n := by
  have head : (lineBits b).head? = some b.msb := by rw [BitVec.msb_eq_getLsbD_last]; rfl
  constructor
  · intro found
    by_cases shallow : n < 64
    · have early : decide (gapBits ≤ n) = false := decide_eq_false (Nat.not_le.2 shallow)
      rw [byteAt, early] at found
      exact absurd found (by simp)
    · obtain ⟨a, rfl⟩ := Nat.exists_eq_add_of_le' (Nat.not_lt.1 shallow)
      rw [byteAt_eq] at found
      split at found
      · rename_i conditions
        simp only [Bool.and_eq_true, beq_iff_eq] at conditions
        obtain ⟨⟨ones, length⟩, zero⟩ := conditions
        have carried : (bits.drop (a + 64)).take 8 = lineBits b := by
          rw [← Option.some_inj.1 found, lineBits_bitsByte length]
        rw [List.length_take, List.length_drop] at length
        have run : (bits.drop a).take 64 = List.replicate 64 true := by
          refine List.eq_replicate_iff.2 ⟨?_, fun x hx => by simpa using List.all_eq_true.1 ones x hx⟩
          rw [List.length_take, List.length_drop]
          omega
        rw [carried, head] at zero
        refine ⟨Option.some_inj.1 zero, bits.take a, bits.drop (a + 64 + 8), ?_, ?_⟩
        · rw [← run, ← carried, runs_append]
        · rw [List.length_take]
          omega
      · exact absurd found (by simp)
  · rintro ⟨zero, before, after, rfl, rfl⟩
    have run : ((before ++ List.replicate 64 true ++ lineBits b ++ after).drop before.length).take 64 =
        List.replicate 64 true := by
      rw [List.append_assoc, List.append_assoc, List.drop_left, List.take_left' (by simp)]
    have byte : ((before ++ List.replicate 64 true ++ lineBits b ++ after).drop (before.length + 64)).take 8 =
        lineBits b := by
      rw [List.append_assoc, List.drop_left' (by simp)]
      rfl
    rw [byteAt_eq, run, byte, head, zero, bitsByte_lineBits]
    rfl

/-! ## The hunt (R30, R31) -/

/-- A cycle marker after a run long enough: the frame 0 that begins with it is sent, in a cycle that keeps its
number. -/
theorem completeHunt_spec {s : State} (aligning : s.link.state = .aligning) :
    (completeHunt s).link.state = .aligning ∧ ∃ (x : Framer) (payload : Payload) (service : Byte), (completeHunt s).framer = { s.framer with
      framed := true, dueFrame := 0, badRun := 0, goodRun := 0, hunt := 0, firstCycle := true, outFrame := 0
      line := .frame 0x2D#8 payload service, outCheck := x.outCheck, lastCheck := x.lastCheck
      positionMessage := x.positionMessage } := by
  let u : State := countCycleStart { frameFromMarker s with
    framer := { (frameFromMarker s).framer with firstCycle := true, outFrame := 0 } }
  have begun : completeHunt s = beginFrame [] 0 u := rfl
  have sent : framesSent u = true := by
    have state : u.link.state = .aligning := aligning
    unfold framesSent
    rw [state]
    exact Bool.or_true _
  have service : beginService 0 u = positionBegun (beginOutCheck u) := beginService_zero_of_sent sent
  have goes : framesSent (beginService 0 u) = true := by
    rw [service]
    exact sent
  have framer := beginFrame_framer_of_sent (order := []) goes
  have link := beginFrame_link [] 0 u
  rw [begun]
  refine ⟨?_, (beginFrame [] 0 u).framer, framePayload [] 0 u, (beginService 0 u).framer.serviceByte 0, ?_⟩
  · rw [link, service]
    exact aligning
  · rw [framer, service]
    rfl

theorem execHuntMarker_of_off {bits : List Bool} {s : State}
    (off : s.link.state ≠ .aligning ∨ s.framer.framed = true) : exec (.huntMarker bits) s = .next s := by
  refine congrArg Host.Outcome.next (if_neg fun on => ?_)
  simp only [Bool.and_eq_true, beq_iff_eq, Bool.not_eq_true'] at on
  rcases off with state | framed
  · exact state on.1
  · simp [framed] at on

theorem execHuntMarker_of_clock {bits : List Bool} {s : State} (state : s.link.state = .aligning)
    (framed : s.framer.framed = false) (role : s.framer.role = .clock) :
    exec (.huntMarker bits) s = .next (searchLine bits s) := by
  change execHuntMarker bits s = _
  rw [execHuntMarker, state, framed, role]
  rfl

theorem execHuntMarker_of_follow {bits : List Bool} {s : State} (state : s.link.state = .aligning)
    (framed : s.framer.framed = false) (role : s.framer.role = .follow) :
    exec (.huntMarker bits) s = .next (huntLine bits s) := by
  change execHuntMarker bits s = _
  rw [execHuntMarker, state, framed, role]
  rfl

/-- The place that the hunt looks at next, when the bits reach it. -/
theorem huntLine_of_looked {bits : List Bool} {s : State}
    (looked : if s.framer.hunt = 0 then findByte bits ≠ none else 1024 ≤ bits.length) :
    huntLine bits s = huntStep (if s.framer.hunt = 0 then findByte bits else byteAt 1016 bits) s := by
  unfold huntLine
  by_cases zero : s.framer.hunt = 0
  · rw [if_pos zero] at looked ⊢
    rw [if_pos zero]
    cases found : findByte bits with
    | none => exact absurd found looked
    | some b => rfl
  · rw [if_neg zero] at looked ⊢
    rw [if_neg zero]
    exact if_neg (Nat.not_lt.2 looked)

theorem huntLine_of_unlooked {bits : List Bool} {s : State}
    (unlooked : ¬if s.framer.hunt = 0 then findByte bits ≠ none else 1024 ≤ bits.length) :
    huntLine bits s = s := by
  unfold huntLine
  by_cases zero : s.framer.hunt = 0
  · rw [if_pos zero, Classical.not_not] at unlooked
    rw [if_pos zero, unlooked]
  · rw [if_neg zero] at unlooked
    rw [if_neg zero]
    exact if_pos (Nat.not_le.1 unlooked)

theorem huntStep_of_frame {found : Option Byte} (s : State) (marker : found = some 0x1B#8) :
    huntStep found s = setHunt s (if s.framer.hunt = 11 then 1 else s.framer.hunt + 1) := if_pos marker

theorem huntStep_of_cycle {found : Option Byte} {s : State} (marker : found = some 0x2D#8) (run : 4 ≤ s.framer.hunt) :
    huntStep found s = completeHunt s := by
  subst marker
  exact (if_neg (by decide)).trans (if_pos (by simp [cycleMarker, run]))

theorem huntStep_of_other {found : Option Byte} {s : State} (other : found ≠ some 0x1B#8)
    (short : found ≠ some 0x2D#8 ∨ s.framer.hunt < 4) : huntStep found s = setHunt s 0 := by
  refine (if_neg other).trans (if_neg fun completes => ?_)
  simp only [Bool.and_eq_true, decide_eq_true_eq] at completes
  obtain ⟨marker, run⟩ := completes
  exact short.elim (absurd marker) fun few => by omega

/-- Settles O56: the bits by their runs, the reports and the hunt by the states that act on them. -/
theorem tonesAndHunt : Obligations.TonesAndHunt := by
  refine ⟨?frame, ?find, ?acts⟩
  case frame => exact fun marker service payload => ⟨frameBits_length .., frameBits_eq ..⟩
  case find =>
    intro ones b rest carried
    have begun (l : List Bool) : findByte (List.replicate ones true ++ l) = findByteAfter ones l :=
      (findByteAfter_ones l ones 0).trans (by rw [Nat.zero_add])
    refine ⟨fun enough first => ?_, fun few => ?_, fun short => ?_, ?_, fun n bits => byteAt_iff n bits b⟩
    · rw [List.append_assoc, begun]
      exact findByteAfter_byte enough first rest
    · rw [begun]
      exact if_pos few
    · rw [begun]
      exact findByteAfter_short _ ones (by rw [List.length_cons]; omega)
    · have none := begun []
      rwa [List.append_nil] at none
  case acts =>
    intro bits s found looked demanded heard gone answering hunting framed
    refine ⟨?heard, ?gone, ?answer, rfl, execHuntMarker_of_off, fun state off role => ?search, fun state off role => ?hunt⟩
    case heard =>
      have willing : willAnswer heard = true ↔ s.settings.autoAnswer = true ∨ demanded :=
        (willAnswer_iff heard).trans (or_congr Iff.rfl heard.link.demands_iff)
      have down : wakeHeardInDown s = if s.link.wakeHeard = true then s
          else if s.settings.autoAnswer = true ∨ demanded then answering else heard.raiseAll .wakeSeen :=
        if_congr Iff.rfl rfl (if_congr willing rfl rfl)
      change execWakeHeard s = _
      unfold execWakeHeard
      refine congrArg Host.Outcome.next ?_
      cases s.link.state with
      | down => exact down
      | _ => rfl
    case gone =>
      have tries : tryIfReady gone = if s.link.state = .down ∧ demanded ∧ s.link.quietGuard = false ∧
          s.link.tryTimer = false ∧ s.link.tryCount < 5 then beginTry gone else gone :=
        (tryIfReady_eq gone).trans (if_congr (by simp [gone, demanded]) rfl rfl)
      change execWakeGone s = _
      unfold execWakeGone
      refine congrArg Host.Outcome.next ?_
      cases s.link.wakeHeard with
      | false => rfl
      | true => exact tries
    case answer => exact congrArg Host.Outcome.next rfl
    case search =>
      exact execHuntMarker_of_clock state off role
    case hunt =>
      have line : exec (.huntMarker bits) s = .next (huntLine bits s) := execHuntMarker_of_follow state off role
      refine ⟨fun unlooked => ?_, fun sees marker few => ?_, fun sees marker full => ?_, fun sees other short => ?_,
        fun sees marker run => ?_⟩
      · rw [line, huntLine_of_unlooked unlooked]
      · rw [line, huntLine_of_looked sees, huntStep_of_frame s marker, if_neg (by omega)]
        rfl
      · rw [line, huntLine_of_looked sees, huntStep_of_frame s marker, if_pos full]
        rfl
      · rw [line, huntLine_of_looked sees, huntStep_of_other other short]
        rfl
      · obtain ⟨aligning, x, payload, service, framer⟩ := completeHunt_spec state
        refine ⟨completeHunt s, ?_, ?_⟩
        · rw [line, huntLine_of_looked sees, huntStep_of_cycle marker run]
        · rw [framer]
          exact ⟨rfl, rfl, rfl, rfl, rfl, rfl, aligning, payload, service, rfl⟩

end Sys2Proof.Machine
end

section
/-! SUPPORT. A cycle start: its entry, what is due at it and the steps taken by themselves (R4, R34, R37, R61, R85, R93,
R97). They settle O50. -/

namespace Sys2Proof.Machine

open Sys2Proof

/-! ## What is due at a cycle start -/

theorem readyWaitDue_iff (s : State) : readyWaitDue s = true ↔
    s.link.state = .synced ∧ ∃ n, s.link.readyWait = some n ∧ 50 ≤ n := by
  unfold readyWaitDue
  cases s.link.readyWait <;> simp

theorem leavingDue_iff (s : State) : leavingDue s = true ↔
    s.link.state = .leaving ∧ ∃ n, s.link.leavingCount = some n ∧ 4 ≤ n := by
  unfold leavingDue
  cases s.link.leavingCount <;> simp

theorem badStartDue_iff (s : State) : badStartDue s = true ↔ ∃ n, s.service.badStart = some n ∧ 4 ≤ n := by
  unfold badStartDue
  cases s.service.badStart <;> simp

theorem timeoutDue_iff (s : State) : timeoutDue s = true ↔ s.exchange.state = .offered ∧ 48 ≤ s.exchange.count := by
  simp [timeoutDue]

/-- The distance from a cycle number to another is 0 when they are the same. -/
theorem distance_eq_zero_iff (a b : Byte) : (a - b).toNat = 0 ↔ a = b := by
  constructor
  · intro none
    bv_omega
  · rintro rfl
    simp

theorem swapDue_iff (s : State) : swapDue s = true ↔ s.exchange.state = .scheduled ∧ ∃ target,
    s.exchange.target = some target ∧ (target = s.framer.cycle ∨ 16 < (target - s.framer.cycle).toNat) := by
  unfold swapDue
  cases s.exchange.target with
  | none => simp
  | some target => simp only [Bool.and_eq_true, Bool.or_eq_true, beq_iff_eq, decide_eq_true_eq, distance_eq_zero_iff,
      Option.some_inj, exists_eq_left']

theorem adoptionDue_iff (s : State) : adoptionDue s = true ↔ s.framer.role = .follow ∧ s.exchange.adopt ≠ none := by
  simp [adoptionDue, Exchange.adoptionPending, Option.isSome_iff_ne_none]

/-! ## What is done -/

/-- The READY wait runs out (R34, R41). -/
def readyTimedOut (order : ChannelOrder) (s : State) : State :=
  (enterDown order { s with link := { s.link with
    tryCount := min 5 (s.link.tryCount + 1)
    lastFailure := if 4 ≤ s.link.tryCount then .wakeFailed else .readyTimeout } }).raiseAll .link

theorem failTry_of_reason (order : ChannelOrder) (reason : FailureReason) (s : State) : failTry order (some reason) s =
    (enterDown order { s with link := { s.link with
      tryCount := min 5 (s.link.tryCount + 1)
      lastFailure := if 4 ≤ s.link.tryCount then .wakeFailed else reason } }).raiseAll .link :=
  failTry_eq order (some reason) s

/-- The switch (R93). -/
def planSwitched (order : ChannelOrder) (s : State) : State :=
  endExchange (checkAreas order (swapBanks s))
    (if s.exchange.side = some .agreer then .peerSwitched else .switched) none true

/-- The adoption of the peer's bank (R97). -/
def bankAdopted (order : ChannelOrder) (s : State) : State :=
  let y := checkAreas order (if s.exchange.adopt = some s.plan.active then s else swapBanks s)
  State.raiseAll { y with exchange := { y.exchange with
    adopt := none, last := some ⟨.adopted, none, some .peer, s.framer.cycle⟩ } } .plan

theorem bankAdoptionOp_eq (order : ChannelOrder) (s : State) : bankAdoptionOp order s = bankAdopted order s := by
  have framer : (checkAreas order (if s.exchange.adopt = some s.plan.active then s else swapBanks s)).framer =
      s.framer := by
    rw [(ChannelStep.checkAreas ..).framer]
    split <;> rfl
  unfold bankAdoptionOp bankAdopted writeOutcome
  dsimp only
  rw [framer]
  rfl

/-! ## The steps taken by themselves (log entries 4 and 5) -/

/-- The cycle entered: its number and the counts raised once (R4). -/
def cycleOpened (s : State) : State := if s.framer.cycleOpen then s else { s with
  framer := { s.framer with cycle := s.framer.cycle + 1#8, cycleOpen := true }
  link := { s.link with readyWait := s.link.readyWait.map fun n => min 50 (n + 1) }
  exchange := { s.exchange with
    count := if s.exchange.state = .offered then min 48 (s.exchange.count + 1) else s.exchange.count }
  service := { s.service with badStart := s.service.badStart.map fun n => min 4 (n + 1) } }

theorem openCycle_eq (s : State) : openCycle s = cycleOpened s := rfl

theorem nextFrame_eq_zero_iff (f : FrameNo) : nextFrame f = 0 ↔ f = 11 := by
  revert f
  decide

theorem frameMayStart_iff (s : State) : frameMayStart s = true ↔
    s.framer.role = .clock ∨ (framesSent s = true ∧ s.framer.dueFrame = s.framer.outFrame + 1) := by
  simp [frameMayStart, nextFrame]

theorem cycleStartReady_iff (s : State) : cycleStartReady s = true ↔ s.framer.cycleOpen = true ∨
    (s.framer.outFrame = 11 ∧ (s.framer.role = .clock ∨ (framesSent s = true ∧ s.framer.dueFrame = 0))) := by
  unfold cycleStartReady
  rw [Bool.or_eq_true, Bool.and_eq_true, beq_iff_eq, nextFrame_eq_zero_iff, frameMayStart_iff]
  refine or_congr Iff.rfl (and_congr_right fun last => ?_)
  rw [last]
  rfl

theorem cycleStep_acts {due : State → Bool} {act : State → State} {s t : State} {entering P : Prop}
    (ready : cycleStartReady s = true ↔ entering) (isDue : due (openCycle s) = true ↔ P) (done : act (openCycle s) = t)
    {i : Instr} (step : exec i s = .next (cycleStep due act s)) :
    (entering → P → exec i s = .next t) ∧ (¬(entering ∧ P) → exec i s = .next s) := by
  have both : (cycleStartReady s && due (openCycle s)) = true ↔ entering ∧ P := by
    rw [Bool.and_eq_true, ready, isDue]
  rw [step, ← done]
  exact ⟨fun enters h => congrArg _ (if_pos (both.2 ⟨enters, h⟩)), fun none => congrArg _ (if_neg (mt both.1 none))⟩

/-- Settles O50: each step by what is due at the cycle's entry. -/
theorem cycleStepsAct : Obligations.CycleStepsAct := by
  intro order s u entering acts withdrawn swapped adopted
  have ready := cycleStartReady_iff s
  exact ⟨cycleStep_acts ready (readyWaitDue_iff u) (failTry_of_reason order .readyTimeout u) rfl,
    cycleStep_acts (act := leavingDone order) ready (leavingDue_iff u) rfl rfl,
    cycleStep_acts (act := badStartExpires) ready (badStartDue_iff u) rfl rfl,
    cycleStep_acts (act := planTimeoutOp) ready (timeoutDue_iff u) rfl rfl,
    cycleStep_acts (act := planSwapOp order) ready (swapDue_iff u) rfl rfl,
    cycleStep_acts ready (adoptionDue_iff u) (bankAdoptionOp_eq order u) rfl⟩

end Sys2Proof.Machine
end

section
/-! SUPPORT. The place of a received frame: its marker judged, the frame read, alignment lost and regained (R5, R6, R11,
R12, R18, R32, R34, R37 to R39, R69, R138). They settle O52. -/

namespace Sys2Proof.Machine

open Sys2Proof

/-! ## The place (R5, R6) -/

/-- The marker is that of the frame due (R1, R183). -/
abbrev MarkerGood (marker : Byte) (s : State) : Prop := marker = if s.framer.dueFrame = 0 then 0x2D#8 else 0x1B#8

/-- The state after the marker at the expected place is judged; at the frame-0 place a new received cycle is begun and
the receive bank follows the active one (R5, R6, R11, R69). -/
def markerJudged (marker : Byte) (s : State) : State := { s with
  plan := if s.framer.dueFrame = 0 then { s.plan with receive := s.plan.active, retained := none } else s.plan
  framer := { s.framer with
    badRun := if marker = (if s.framer.dueFrame = 0 then 0x2D#8 else 0x1B#8) then 0 else min 3 (s.framer.badRun + 1)
    goodRun := if marker = (if s.framer.dueFrame = 0 then 0x2D#8 else 0x1B#8) then min 2 (s.framer.goodRun + 1) else 0
    inCheck := if s.framer.dueFrame = 0 then 0xFFFF#16 else s.framer.inCheck
    receiving := if s.framer.dueFrame = 0 then ⟨Vector.replicate 12 0#8, s.plan.active⟩ else s.framer.receiving } }

theorem frame_val_eq_zero_iff (f : FrameNo) : f.val = 0 ↔ f = 0 := Fin.val_eq_zero_iff

theorem markerOf_eq (f : FrameNo) : markerOf f = if f = 0 then 0x2D#8 else 0x1B#8 :=
  if_congr (frame_val_eq_zero_iff f) rfl rfl

theorem judgeMarker_eq (marker : Byte) (s : State) :
    judgeMarker (marker == markerOf s.framer.dueFrame) (if s.framer.dueFrame.val = 0 then openReceived s else s) =
      markerJudged marker s := by
  have good : (marker == markerOf s.framer.dueFrame) = true ↔
      marker = if s.framer.dueFrame = 0 then 0x2D#8 else 0x1B#8 := by
    rw [beq_iff_eq, markerOf_eq]
  unfold judgeMarker markerJudged
  simp only [good]
  by_cases zero : s.framer.dueFrame = 0
  · simp only [if_pos zero, if_pos ((frame_val_eq_zero_iff _).2 zero)]
    rfl
  · simp only [if_neg zero, if_neg (mt (frame_val_eq_zero_iff _).1 zero)]

/-- No outbound frame begins with the place. -/
abbrev NoneBegins (s : State) : Prop :=
  s.framer.role = .clock ∨ framesSent s = false ∨ s.framer.outFrame + 1 ≠ s.framer.dueFrame

theorem catchUp_of_none {s : State} (none : NoneBegins s) (order : ChannelOrder) : catchUp order s = s := by
  refine if_neg fun begins => ?_
  rw [Bool.and_eq_true, beq_iff_eq, frameMayStart_iff] at begins
  obtain ⟨follow, may⟩ := begins
  have sent := may.resolve_left (by simp [follow])
  rcases none with clock | unsent | apart
  · simp [follow] at clock
  · simp [sent.1] at unsent
  · exact apart sent.2.symm

section Place
variable {marker service : Byte} {payload : Payload} {order : ChannelOrder} {s : State}

theorem exec_receivedFrame_of_unframed (unframed : s.framer.framed = false) :
    exec (.receivedFrame marker payload service order) s = .next s :=
  congrArg Host.Outcome.next (if_neg (by simp [unframed]))

theorem exec_receivedFrame_of_framed (framed : s.framer.framed = true) (none : NoneBegins s) :
    exec (.receivedFrame marker payload service order) s =
      .next (receivePlace order marker payload service s) := by
  refine congrArg Host.Outcome.next ((if_pos framed).trans ?_)
  rw [catchUp_of_none none]
  exact if_pos framed

theorem receivePlace_of_resync (state : s.link.state = .resync) :
    receivePlace order marker payload service s = resyncPlace order
      (decide (MarkerGood marker s ∧ s.framer.dueFrame = 0 ∧ s.framer.goodRun = 2)) payload service
      (markerJudged marker s) := by
  have regained : (marker == markerOf s.framer.dueFrame && s.framer.dueFrame.val == 0 && s.framer.goodRun == 2) =
      decide (MarkerGood marker s ∧ s.framer.dueFrame = 0 ∧ s.framer.goodRun = 2) := by
    rw [Bool.eq_iff_iff]
    simp only [Bool.and_eq_true, beq_iff_eq, decide_eq_true_eq, frame_val_eq_zero_iff, markerOf_eq, and_assoc]
  unfold receivePlace
  rw [if_pos state, judgeMarker_eq, regained]

theorem markerJudged_badRun_iff : (markerJudged marker s).framer.badRun = 3 ↔
    ¬MarkerGood marker s ∧ 2 ≤ s.framer.badRun := by
  change (if MarkerGood marker s then 0 else min 3 (s.framer.badRun + 1)) = 3 ↔ _
  split
  · rename_i good
    simp [good]
  · rename_i bad
    rw [and_iff_right bad]
    omega

theorem receivePlace_of_kept (state : s.link.state ≠ .resync)
    (kept : MarkerGood marker s ∨ s.framer.badRun < 2) :
    receivePlace order marker payload service s = readFrame order payload service (markerJudged marker s) := by
  have short : ¬(markerJudged marker s).framer.badRun = 3 := fun lost => by
    obtain ⟨bad, run⟩ := markerJudged_badRun_iff.1 lost
    exact kept.elim bad fun few => by omega
  unfold receivePlace
  rw [if_neg state, judgeMarker_eq, if_neg short]

theorem receivePlace_of_lost (state : s.link.state ≠ .resync) (bad : ¬MarkerGood marker s)
    (run : 2 ≤ s.framer.badRun) : receivePlace order marker payload service s =
      alignmentLost order payload service (markerJudged marker s) := by
  unfold receivePlace
  rw [if_neg state, judgeMarker_eq, if_pos (markerJudged_badRun_iff.2 ⟨bad, run⟩)]

/-- In LEAVING the loss is disregarded, and the frame read all the same (R37). -/
theorem receivePlace_of_read (state : s.link.state ≠ .resync)
    (kept : MarkerGood marker s ∨ s.framer.badRun < 2 ∨ s.link.state = .leaving) :
    receivePlace order marker payload service s = readFrame order payload service (markerJudged marker s) := by
  by_cases lost : ¬MarkerGood marker s ∧ 2 ≤ s.framer.badRun
  · obtain ⟨bad, run⟩ := lost
    have leaving : s.link.state = .leaving := (kept.resolve_left bad).resolve_left (Nat.not_lt.2 run)
    have judged : (markerJudged marker s).link.state = .leaving := leaving
    rw [receivePlace_of_lost state bad run, alignmentLost, judged]
  · refine receivePlace_of_kept state ?_
    rcases not_and_or.1 lost with good | few
    · exact .inl (Classical.not_not.1 good)
    · exact .inr (Nat.not_le.1 few)

end Place

/-! ## The frame read (R5, R9, R11, R138) -/

/-- The frame's payload and service byte taken in (R9, R11). -/
theorem gatherFrame_eq (payload : Payload) (service : Byte) (s : State) : gatherFrame payload service s = { s with
    framer := { s.framer with
      inCheck := checkFrame s.framer.dueFrame payload service s.framer.inCheck
      receiving := { s.framer.receiving with
        service := s.framer.receiving.service.set s.framer.dueFrame.val service } } } := rfl

/-- The payload handed over, in the states that count frames (R3, R5). -/
def frameHanded (payload : Payload) (s : State) : State :=
  { s with framer := { s.framer with lastHanded := some payload } }

theorem LinkState.counted_eq {l : LinkState} (h : l = .synced ∨ l = .up ∨ l = .leaving) : l.counted = true := by
  rcases h with rfl | rfl | rfl <;> rfl

theorem handOver_of_up {order : ChannelOrder} {payload : Payload} {s : State} (up : s.link.state = .up)
    (calm : s.exchange.mismatch = false) : handOver order payload s =
      (channelOrder order).foldl (deliverChannel payload) (frameHanded payload s) := by
  have counted : s.link.state.counted = true := LinkState.counted_eq (.inr (.inl up))
  refine (if_pos counted).trans (if_pos ?_)
  rw [up, calm]
  rfl

theorem handOver_of_closed {order : ChannelOrder} {payload : Payload} {s : State}
    (state : s.link.state = .synced ∨ s.link.state = .up ∨ s.link.state = .leaving)
    (closed : s.link.state ≠ .up ∨ s.exchange.mismatch = true) :
    handOver order payload s = frameHanded payload s := by
  refine (if_pos (LinkState.counted_eq state)).trans (if_neg fun opens => ?_)
  rw [Bool.and_eq_true, Bool.not_eq_true', decide_eq_true_eq] at opens
  exact closed.elim (absurd opens.1) fun mismatch => absurd (opens.2.symm.trans mismatch) (by decide)

theorem handOver_of_aligning {order : ChannelOrder} {payload : Payload} {s : State}
    (aligning : s.link.state = .aligning) : handOver order payload s = s := by
  refine if_neg ?_
  rw [aligning]
  decide

/-- The delivery of a frame leaves the framer and the link. -/
theorem deliverChannels_step (order : ChannelOrder) (payload : Payload) (s : State) :
    TransferStep s ((channelOrder order).foldl (deliverChannel payload) s) := by
  refine TransferStep.foldl (fun t c => ?_) _ s
  unfold deliverChannel
  split
  · exact TransferStep.deliverUnit ..
  · exact TransferStep.refl t

theorem adoptProvisionally_of_other {service : Byte} {s : State} (other : s.link.state ≠ .aligning) :
    adoptProvisionally service s = s := if_neg fun h => by simp [other] at h

theorem readFrame_of_early {order : ChannelOrder} {payload : Payload} {service : Byte} {s : State}
    (early : s.framer.dueFrame ≠ 11) : readFrame order payload service s =
      advanceDue (adoptProvisionally service (handOver order payload (gatherFrame payload service s))) :=
  congrArg advanceDue (if_neg fun last => early (Fin.ext last))

theorem readFrame_of_last {order : ChannelOrder} {payload : Payload} {service : Byte} {s : State}
    (last : s.framer.dueFrame = 11) : readFrame order payload service s =
      advanceDue (endReceivedCycle order
        (adoptProvisionally service (handOver order payload (gatherFrame payload service s)))) :=
  congrArg advanceDue (if_pos (congrArg Fin.val last))

/-- A frame of the middle of a cycle, or of its start, in the states that hand frames over. -/
theorem readFrame_of_open {order : ChannelOrder} {payload : Payload} {service : Byte} {s : State}
    (early : s.framer.dueFrame ≠ 11) (up : s.link.state = .up) (calm : s.exchange.mismatch = false) :
    readFrame order payload service s = advanceDue ((channelOrder order).foldl (deliverChannel payload)
      (frameHanded payload (gatherFrame payload service s))) := by
  have link := (deliverChannels_step order payload (frameHanded payload (gatherFrame payload service s))).link
  have handed : handOver order payload (gatherFrame payload service s) = (channelOrder order).foldl
      (deliverChannel payload) (frameHanded payload (gatherFrame payload service s)) := handOver_of_up up calm
  rw [readFrame_of_early early, handed, adoptProvisionally_of_other]
  rw [link]
  change s.link.state ≠ .aligning
  rw [up]
  decide

theorem readFrame_of_closed {order : ChannelOrder} {payload : Payload} {service : Byte} {s : State}
    (early : s.framer.dueFrame ≠ 11) (state : s.link.state = .synced ∨ s.link.state = .up ∨ s.link.state = .leaving)
    (closed : s.link.state ≠ .up ∨ s.exchange.mismatch = true) : readFrame order payload service s =
      advanceDue (frameHanded payload (gatherFrame payload service s)) := by
  have handed : handOver order payload (gatherFrame payload service s) =
      frameHanded payload (gatherFrame payload service s) := handOver_of_closed state closed
  rw [readFrame_of_early early, handed, adoptProvisionally_of_other]
  change s.link.state ≠ .aligning
  rcases state with h | h | h <;> rw [h] <;> decide

/-! ## Alignment lost and regained (R6, R32, R34, R38, R39) -/

section Lost
variable {order : ChannelOrder} {payload : Payload} {service : Byte} {s : State}

theorem alignmentLost_of_up (up : s.link.state = .up) :
    alignmentLost order payload service s = advanceDue (enterResync s) := by
  rw [alignmentLost, up]

theorem alignmentLost_of_synced (synced : s.link.state = .synced) :
    alignmentLost order payload service s = failTry order (some .lost) s := by
  rw [alignmentLost, synced]

theorem alignmentLost_of_aligning (aligning : s.link.state = .aligning) :
    alignmentLost order payload service s = loseFraming s := by
  rw [alignmentLost, aligning]

theorem resyncPlace_counted {n : Nat} (count : s.link.resyncCount = some n) (few : n < 39) :
    resyncPlace order false payload service s =
      advanceDue { s with link := { s.link with resyncCount := some (n + 1) } } := by
  have below : ¬40 ≤ s.link.resyncCount.getD 0 + 1 := by
    rw [count, Option.getD_some]
    omega
  unfold resyncPlace
  refine (if_neg below).trans ?_
  rw [count]
  rfl

theorem resyncPlace_lost {n : Nat} (count : s.link.resyncCount = some n) (limit : 39 ≤ n) :
    resyncPlace order false payload service s = resyncLost order s := by
  have reached : 40 ≤ s.link.resyncCount.getD 0 + 1 := by
    rw [count, Option.getD_some]
    omega
  exact if_pos reached

theorem leaveIfUnwanted_eq (s : State) : leaveIfUnwanted s =
    if (s.link.claims.p1 || s.link.claims.p2 || s.link.claims.p3) = false ∧ s.link.peerDemand = false then
      enterLeaving s else s := if_congr (by simp [Link.demands]) rfl rfl

end Lost

/-- The fall of a place into DOWN: its framing has ended, and LINK is told to every port (R40, R41). -/
theorem enterDown_told (order : ChannelOrder) (s : State) :
    ((enterDown order s).raiseAll .link).framer.framed = false ∧
      ∀ p, (((enterDown order s).raiseAll .link).port p).holds .link = true := by
  refine ⟨(FramerCleared.enterDown order s).framed, fun p => ?_⟩
  rw [raiseAll_holds]
  simp

theorem resyncLost_told (order : ChannelOrder) (s : State) : (resyncLost order s).link.lastFailure = .lost ∧
    (resyncLost order s).link.tryCount = s.link.tryCount ∧ (resyncLost order s).framer.framed = false ∧
    ∀ p, ((resyncLost order s).port p).holds .link = true := by
  obtain ⟨-, tried, reason, -⟩ := fellTo_enterDown order s s.link.tryCount .lost
  obtain ⟨unframed, told⟩ := enterDown_told order { s with link := { s.link with lastFailure := .lost } }
  exact ⟨reason, tried, unframed, told⟩

theorem loseFraming_framer (s : State) : (loseFraming s).framer.framed = false ∧
    (loseFraming s).framer.pendingCheck = none ∧ (loseFraming s).framer.hunt = 0 ∧
    (loseFraming s).framer.line = if s.framer.role = .follow then .quiet else s.framer.line := by
  unfold loseFraming
  dsimp only
  split <;> exact ⟨rfl, rfl, rfl, rfl⟩

/-- The frame 0 has been taken, and frame 1 is due (R5). -/
def firstTaken (s : State) : State := { s with framer := { s.framer with dueFrame := 1 } }

theorem advanceDue_of_zero {s : State} (due : s.framer.dueFrame = 0) : advanceDue s = firstTaken s := by
  unfold advanceDue
  rw [due]
  rfl

/-- The frame 0 of a received cycle taken in and handed over (R5, R11). -/
def zeroRead (payload : Payload) (service : Byte) (r : Bank) (s : State) : State := { s with framer := { s.framer with
  inCheck := checkFrame 0 payload service 0xFFFF#16
  receiving := ⟨(Vector.replicate 12 0#8).set 0 service, r⟩
  lastHanded := some payload } }

theorem frameHanded_gatherFrame {payload : Payload} {service : Byte} {s : State} {r : Bank}
    (due : s.framer.dueFrame = 0) (check : s.framer.inCheck = 0xFFFF#16)
    (cycle : s.framer.receiving = ⟨Vector.replicate 12 0#8, r⟩) :
    frameHanded payload (gatherFrame payload service s) = zeroRead payload service r s := by
  simp only [gatherFrame_eq, frameHanded, zeroRead, due, check, cycle]
  rfl

section Regained
variable {order : ChannelOrder} {payload : Payload} {service : Byte} {s : State} {r : Bank}

/-- The frame 0 that is read in UP or LEAVING. -/
theorem readFrame_of_zero (state : s.link.state = .up ∨ s.link.state = .leaving) (due : s.framer.dueFrame = 0)
    (check : s.framer.inCheck = 0xFFFF#16) (cycle : s.framer.receiving = ⟨Vector.replicate 12 0#8, r⟩) :
    readFrame order payload service s = firstTaken (if s.link.state = .up ∧ s.exchange.mismatch = false then
      (channelOrder order).foldl (deliverChannel payload) (zeroRead payload service r s)
      else zeroRead payload service r s) := by
  have early : s.framer.dueFrame ≠ 11 := by
    rw [due]
    decide
  have handed := frameHanded_gatherFrame (payload := payload) (service := service) due check cycle
  by_cases opens : s.link.state = .up ∧ s.exchange.mismatch = false
  · rw [if_pos opens, readFrame_of_open early opens.1 opens.2, handed, advanceDue_of_zero]
    rw [(deliverChannels_step ..).framer]
    exact due
  · have closed : s.link.state ≠ .up ∨ s.exchange.mismatch = true :=
      (not_and_or.1 opens).imp_right fun h => by simpa using h
    rw [if_neg opens, readFrame_of_closed early (.inr state) closed, handed]
    exact advanceDue_of_zero due

theorem readFrame_of_zero_frame (state : s.link.state = .up ∨ s.link.state = .leaving) (due : s.framer.dueFrame = 0)
    (check : s.framer.inCheck = 0xFFFF#16) (cycle : s.framer.receiving = ⟨Vector.replicate 12 0#8, r⟩) :
    (readFrame order payload service s).link = s.link ∧
      (readFrame order payload service s).framer = { (zeroRead payload service r s).framer with dueFrame := 1 } := by
  have step := deliverChannels_step order payload (zeroRead payload service r s)
  rw [readFrame_of_zero state due check cycle]
  split
  · refine ⟨step.link, ?_⟩
    rw [firstTaken, step.framer]
  · exact ⟨rfl, rfl⟩

end Regained

/-- What the return of alignment leaves of the link. -/
def regainedLink (s : State) : Link :=
  if (s.link.claims.p1 || s.link.claims.p2 || s.link.claims.p3) = false ∧ s.link.peerDemand = false then
    { s.link with state := .leaving, resyncCount := none, leavingCount := some 0, readyWait := none }
  else { s.link with state := .up, resyncCount := none }

/-- The return to UP, and the leaving rules in it (R36, R39). -/
def regainedState (s : State) : State := { s with
  link := regainedLink s
  exchange := if (regainedLink s).state = .leaving then { s.exchange with mismatchRun := 0 } else s.exchange }

theorem regainedLink_state (s : State) : (regainedLink s).state = .up ∨ (regainedLink s).state = .leaving := by
  unfold regainedLink
  split
  · exact .inr rfl
  · exact .inl rfl

theorem regainedState_mismatch (s : State) : (regainedState s).exchange.mismatch = s.exchange.mismatch := by
  unfold regainedState
  dsimp only
  split <;> rfl

theorem resyncPlace_regained (order : ChannelOrder) (payload : Payload) (service : Byte) (s : State) :
    resyncPlace order true payload service s = readFrame order payload service (regainedState s) := by
  have regained : resyncPlace order true payload service s = readFrame order payload service
    (leaveIfUnwanted { s with link := { s.link with state := .up, resyncCount := none } }) := rfl
  rw [regained, leaveIfUnwanted_eq]
  unfold regainedState regainedLink
  by_cases unwanted : (s.link.claims.p1 || s.link.claims.p2 || s.link.claims.p3) = false ∧ s.link.peerDemand = false
  · rw [if_pos unwanted, if_pos unwanted]
    rfl
  · rw [if_neg unwanted, if_neg unwanted]
    rfl

/-- Settles O52: the place by the marker's judgement, then by the link state. -/
theorem alignmentLossAndReturn : Obligations.AlignmentLossAndReturn := by
  intro marker service payload order s f good opened judged place framed alone
  have placed : place = .next (receivePlace order marker payload service s) :=
    exec_receivedFrame_of_framed framed alone
  have lost (other : s.link.state ≠ .resync) (bad : ¬good) (run : s.framer.badRun = 2) :
      place = .next (alignmentLost order payload service judged) :=
    placed.trans (congrArg _ (receivePlace_of_lost other bad run.ge))
  refine ⟨fun bad run => ⟨fun up => ?up, fun synced => ?synced, fun aligning => ?aligning⟩, fun n resync count =>
    ⟨fun regains => ?regained, fun goesOn few => ?counted, fun goesOn limit => ?lost⟩⟩
  case up =>
    have third : judged.framer.badRun = 3 := markerJudged_badRun_iff.2 ⟨bad, run.ge⟩
    exact ⟨advanceDue (enterResync judged), (lost (by rw [up]; decide) bad run).trans
      (congrArg _ (alignmentLost_of_up (s := judged) up)), rfl, rfl, rfl, third, if_neg bad, rfl, framed, rfl, rfl, rfl⟩
  case synced =>
    obtain ⟨state, tried, reason, -⟩ := fellTo_enterDown order judged (min 5 (s.link.tryCount + 1))
      (if 4 ≤ s.link.tryCount then .wakeFailed else .lost)
    obtain ⟨unframed, told⟩ := enterDown_told order { judged with link := { s.link with
      tryCount := min 5 (s.link.tryCount + 1)
      lastFailure := if 4 ≤ s.link.tryCount then .wakeFailed else .lost } }
    refine ⟨_, (lost (by rw [synced]; decide) bad run).trans (congrArg _ ((alignmentLost_of_synced (s := judged)
      synced).trans (failTry_of_reason order .lost judged))), ne_of_eq_of_ne state ?_, unframed, tried, reason, told, rfl⟩
    split <;> decide
  case aligning =>
    have fell : place = .next (loseFraming judged) :=
      (lost (by rw [aligning]; decide) bad run).trans (congrArg _ (alignmentLost_of_aligning (s := judged) aligning))
    obtain ⟨unframed, pending, hunt, line⟩ := loseFraming_framer judged
    exact ⟨loseFraming judged, fell, rfl, unframed, pending, hunt, line, rfl⟩
  case regained =>
    obtain ⟨marked, zero, two⟩ := regains
    have state := regainedLink_state judged
    have due : (regainedState judged).framer.dueFrame = 0 := zero
    have check : (regainedState judged).framer.inCheck = 0xFFFF#16 := if_pos zero
    have cycle : (regainedState judged).framer.receiving = ⟨Vector.replicate 12 0#8, s.plan.active⟩ := if_pos zero
    obtain ⟨link, framer⟩ := readFrame_of_zero_frame (s := regainedState judged) (order := order) (payload := payload)
      (service := service) state due check cycle
    refine ⟨readFrame order payload service (regainedState judged), ?_, ?_, ?_, ?_, link, ?_⟩
    · rw [placed, receivePlace_of_resync resync, decide_eq_true ⟨marked, zero, two⟩]
      exact congrArg _ (resyncPlace_regained order payload service judged)
    · rw [framer]
      exact if_pos marked
    · rw [framer]
    · rw [framer]
      rfl
    · have mismatch := regainedState_mismatch judged
      rw [link]
      refine (readFrame_of_zero state due check cycle).trans (congrArg firstTaken ?_)
      rw [mismatch]
      rfl
  case counted =>
    refine ⟨advanceDue { judged with link := { s.link with resyncCount := some (n + 1) } }, ?_, rfl, rfl, rfl⟩
    rw [placed, receivePlace_of_resync resync, decide_eq_false goesOn]
    exact congrArg _ (resyncPlace_counted (s := judged) count few)
  case lost =>
    obtain ⟨reason, tried, unframed, told⟩ := resyncLost_told order judged
    refine ⟨resyncLost order judged, ?_, reason, tried, unframed, told, rfl⟩
    rw [placed, receivePlace_of_resync resync, decide_eq_false goesOn]
    exact congrArg _ (resyncPlace_lost (s := judged) count limit)

end Sys2Proof.Machine
end

section
/-! SUPPORT. What a position, a decision and a cycle start keep of the framer, the link and the events held (R12, R53,
R161). -/

namespace Sys2Proof.Machine

open Sys2Proof

/-! ## An accepted position (R53) -/

/-- What handling a position keeps: the framer but for the two test settings, the link, and the events held. -/
structure PositionStep (s t : State) : Prop where
  framer : t.framer = { s.framer with badChecks := t.framer.badChecks, checkBlind := t.framer.checkBlind }
  link : t.link = s.link
  held : ∀ p e, (s.port p).holds e = true → (t.port p).holds e = true

namespace PositionStep
variable {s t u : State}

theorem refl (s : State) : PositionStep s s := ⟨rfl, rfl, fun _ _ h => h⟩

theorem trans (h : PositionStep s t) (k : PositionStep t u) : PositionStep s u :=
  ⟨by rw [k.framer, h.framer], k.link.trans h.link, fun p e held => k.held p e (h.held p e held)⟩

theorem ofEq (framer : t.framer = s.framer) (link : t.link = s.link) (ports : t.ports = s.ports) :
    PositionStep s t := by
  refine ⟨by rw [framer], link, fun p e held => ?_⟩
  rw [State.port, ports]
  exact held

theorem ite {p : Prop} [Decidable p] (h : p → PositionStep s t) (k : ¬p → PositionStep s u) :
    PositionStep s (if p then t else u) := by
  split
  · exact h ‹_›
  · exact k ‹_›

theorem raise (s : State) (p : Port) (e : Event) : PositionStep s (s.raise p e) := by
  refine ⟨rfl, rfl, fun q f held => ?_⟩
  rw [State.raise, State.setPort_port]
  split
  · rename_i same
    rw [PortState.raise_holds, ← same, held]
    rfl
  · exact held

theorem raiseAll (s : State) (e : Event) : PositionStep s (s.raiseAll e) :=
  ((raise s .p1 e).trans (raise _ .p2 e)).trans (raise _ .p3 e)

/-! ### The plan exchange -/

theorem endExchange (s : State) (k : PlanOutcomeKind) (r : Option RefusalReason) (b : Bool) :
    PositionStep s (endExchange s k r b) := by
  refine ⟨by rw [endExchange_framer], endExchange_link .., fun p e held => ?_⟩
  rw [endExchange_port, PortState.raise_holds, held]
  rfl

theorem appendPlan (s : State) (m : Message) : PositionStep s (appendPlan s m) :=
  ite (fun _ => ofEq rfl rfl rfl) fun _ => refl s

theorem sendWithdraw (s : State) : PositionStep s (sendWithdraw s) :=
  ite (fun _ => refl s) fun _ => appendPlan ..

theorem enterScheduled (s : State) (d : Side) (q : Option Requester) (target : Option Byte) :
    PositionStep s (enterScheduled s d q target) :=
  trans (t := { s with exchange := { s.exchange with
    state := .scheduled, side := some d, requester := q, target := target } }) (ofEq rfl rfl rfl) (raiseAll ..)

theorem writeAnswer (s : State) (m : Message) (a : AnswerSource) : PositionStep s (writeAnswer s m a) := by
  have written : PositionStep s { s with service := { s.service with answer := some ⟨m, a⟩ } } := ofEq rfl rfl rfl
  unfold Machine.writeAnswer
  dsimp only
  split
  · exact written.trans (ite (fun _ => endExchange ..) fun _ => refl _)
  · exact written

theorem offerInIdle (s : State) (d : Word) : PositionStep s (offerInIdle s d) := by
  unfold Machine.offerInIdle
  refine ite (fun _ => writeAnswer ..) fun _ => ?_
  refine trans (t := { s with exchange := { s.exchange with
    answer := some (answerDigest s.plan.shadowTables), peerOffer := some d } }) (ofEq rfl rfl rfl) ?_
  exact ite (fun _ => (writeAnswer ..).trans (enterScheduled ..)) fun _ => writeAnswer ..

theorem planReceived (s : State) (m : Message) : PositionStep s (planReceived s m) := by
  unfold Machine.planReceived
  refine ite (fun _ => ?_) fun _ => ite (fun _ => ?_) fun _ => ite (fun _ => ?_) fun _ => ?_
  · unfold offerReceived
    split
    · exact offerInIdle ..
    · exact writeAnswer ..
    · exact ite (fun _ => writeAnswer ..) fun _ => (endExchange ..).trans (offerInIdle ..)
  · exact ite (fun _ => ite (fun _ => enterScheduled ..) fun _ => (sendWithdraw s).trans (endExchange ..))
      fun _ => refl s
  · exact ite (fun _ => endExchange ..) fun _ => refl s
  · exact ite (fun _ => endExchange ..) fun _ => refl s

/-! ### The service channel -/

theorem declineAwait (s : State) (w : Word) : PositionStep s (declineAwait s w) := ofEq rfl rfl rfl

theorem maintenanceAction (s : State) (m : Message) : PositionStep s (maintenanceAction s m) := by
  unfold Machine.maintenanceAction
  refine ite (fun _ => ofEq rfl rfl rfl) fun _ => ite (fun _ => ?_) fun _ => ite (fun _ => ?_) fun _ =>
    ite (fun _ => ?_) fun _ => refl s
  · split
    · exact ofEq rfl rfl rfl
    · exact refl s
  · exact ⟨rfl, rfl, fun _ _ held => held⟩
  · exact ⟨rfl, rfl, fun _ _ held => held⟩

/-- The peer's write raises CELL where a port watches, and takes no event off (R153). -/
theorem peerWrite (s : State) (k : CellNo) (v : Word) : PositionStep s (peerWrite s k v) := by
  have step := ChannelStep.peerWrite s k v
  refine ⟨by rw [step.framer], step.link, fun p e held => ?_⟩
  obtain ⟨-, -, -, port⟩ := gateRule_effect (s.writeCell k v) k
  have written : ((s.writeCell k v).port p).holds e = true := by
    rw [writeCell_port]
    split
    · exact held
    · exact (PortState.recordChange_frame _ k).2.2 e held
  change ((gateRule (s.writeCell k v) k).1.port p).holds e = true
  rw [port]
  split
  · exact written
  · exact (PortState.recordChange_frame _ k).2.2 e written

theorem autoOrder (s : State) (m : Message) : PositionStep s (autoOrder s m).2 := by
  unfold Machine.autoOrder
  split_ifs
  · exact writeAnswer ..
  · exact refl s
  · exact declineAwait ..
  · exact (maintenanceAction s m).trans (writeAnswer ..)
  · exact writeAnswer ..

theorem autoValue (s : State) (m : Message) : PositionStep s (autoValue s m).2 := by
  unfold Machine.autoValue
  split
  · exact writeAnswer ..
  · split
    · split
      · exact (peerWrite ..).trans (writeAnswer ..)
      · exact writeAnswer ..
    · exact writeAnswer ..

theorem dispose (s : State) (m : Message) : PositionStep s (dispose s m).2 := by
  unfold Machine.dispose
  split
  · exact planReceived ..
  · split
    · exact ofEq rfl rfl rfl
    · split
      · split
        · exact autoOrder ..
        · exact autoValue ..
      · exact ite (fun _ => declineAwait ..) fun _ => refl s

theorem reportMade (m : Message) (c : Byte) (p : Position) (d : Disposition) (s : State) :
    PositionStep s (reportMade m c p d s) := by
  unfold Machine.reportMade
  exact trans (t := { s with service := if s.service.reports.length < 8 then
    { s.service with reports := s.service.reports ++ [⟨m, c, p, d⟩] } else { s.service with overflow := true } })
    (ofEq rfl rfl rfl) (raise ..)

theorem positionReceived (s : State) (p : Position) (c : Byte) (m : Message) :
    PositionStep s (positionReceived s p c m) := by
  by_cases confirmed : lookedAlike s m 2 ∧ s.service.lastConfirmed ≠ some m
  · have disposed : PositionStep s (Machine.dispose (messageConfirmed s m) m).2 :=
      trans (t := messageConfirmed s m) (ofEq rfl rfl rfl) (dispose _ m)
    rw [positionReceived_confirmed c p confirmed]
    exact ite (fun _ => disposed.trans (reportMade ..)) fun _ => ite (fun _ => disposed.trans (reportMade ..))
      fun _ => disposed
  · have seen : PositionStep s (positionSeen s m) := ofEq rfl rfl rfl
    rw [positionReceived_unconfirmed c p confirmed]
    exact ite (fun _ => seen.trans (reportMade ..)) fun _ => seen

end PositionStep

/-! ## The frame numbers at a cycle start (R4, R20) -/

/-- The role, the frame numbers and the cycle number. -/
def Framer.numbers (x : Framer) : Role × FrameNo × FrameNo × Byte := (x.role, x.outFrame, x.dueFrame, x.cycle)

/-- An entry into DOWN clears the framer, and the line carries nothing or the ANSWER tone. -/
theorem enterDown_framer (order : ChannelOrder) (s : State) : (enterDown order s).framer =
    { s.framer.entersDown with line := (enterDown order s).framer.line } := by
  have framer := announceDown_framer order s
  rw [enterDown_eq]
  split
  · split
    · simp only [enterAnswering, setLine, framer]
    · exact framer.trans (by rw [← framer]; rfl)
  · rw [framer]

theorem enterDown_numbers (order : ChannelOrder) (s : State) :
    (enterDown order s).framer.numbers = s.framer.numbers := by
  rw [enterDown_framer]
  rfl

theorem failTry_numbers (order : ChannelOrder) (r : FailureReason) (s : State) :
    (failTry order (some r) s).framer.numbers = s.framer.numbers := by
  rw [failTry_of_reason]
  exact enterDown_numbers ..

theorem sendWithdraw_framer (s : State) : (sendWithdraw s).framer = s.framer := by
  unfold sendWithdraw appendPlan
  split
  · rfl
  · split <;> rfl

theorem planTimeoutOp_framer (s : State) : (planTimeoutOp s).framer = s.framer :=
  (endExchange_framer ..).trans (sendWithdraw_framer s)

theorem planSwapOp_framer (order : ChannelOrder) (s : State) : (planSwapOp order s).framer = s.framer :=
  (endExchange_framer ..).trans (ChannelStep.checkAreas ..).framer

theorem bankAdoptionOp_framer (order : ChannelOrder) (s : State) : (bankAdoptionOp order s).framer = s.framer := by
  rw [bankAdoptionOp_eq]
  refine (ChannelStep.checkAreas ..).framer.trans ?_
  split <;> rfl

theorem whenDue_numbers {due : State → Bool} {act : State → State}
    (h : ∀ s, (act s).framer.numbers = s.framer.numbers) (s : State) :
    (whenDue due act s).framer.numbers = s.framer.numbers := by
  unfold whenDue
  split
  · exact h s
  · rfl

theorem runDue_numbers (order : ChannelOrder) (s : State) : (runDue order s).framer.numbers = s.framer.numbers := by
  unfold runDue
  rw [whenDue_numbers fun u => by rw [bankAdoptionOp_framer], whenDue_numbers fun u => by rw [planSwapOp_framer],
    whenDue_numbers fun u => by rw [planTimeoutOp_framer], whenDue_numbers (act := badStartExpires) fun u => rfl,
    whenDue_numbers (act := leavingDone order) fun u => enterDown_numbers order u, whenDue_numbers fun u => failTry_numbers order _ u]

/-! ## The frame numbers as a frame begins (R1, R3) -/

theorem beginPosition_framer (s : State) : (beginPosition s).framer =
    { s.framer with positionMessage := (beginPosition s).framer.positionMessage } := by
  cases sent : framesSent s with
  | true => rw [beginPosition_of_sent sent, positionBegun]
  | false => rw [beginPosition_of_unsent sent]

theorem statusSent_numbers (s : State) : (statusSent s).framer.numbers = s.framer.numbers := by
  unfold statusSent
  dsimp only
  split_ifs <;> rfl

theorem beginService_numbers (f : FrameNo) (s : State) : (beginService f s).framer.numbers = s.framer.numbers := by
  have position (u : State) : (beginPosition u).framer.numbers = u.framer.numbers := by rw [beginPosition_framer]; rfl
  unfold beginService
  split_ifs
  · exact position _
  · exact position s
  · rfl
  · exact statusSent_numbers s
  · rfl
  · exact position s
  · rfl
  · rfl

theorem beginFrame_numbers (order : ChannelOrder) (f : FrameNo) (s : State) :
    (beginFrame order f s).framer.numbers = s.framer.numbers := by
  cases sent : framesSent (beginService f s) with
  | true =>
    rw [beginFrame_framer_of_sent sent, ← beginService_numbers f s]
    rfl
  | false => rw [beginFrame_of_unsent sent, frameUnits_framer, beginService_numbers]

/-! ## The step of an outbound frame (R4) -/

/-- The state that an outbound frame begins from, once all that falls due at a cycle start is done. -/
def frameEntered (order : ChannelOrder) (s : State) : State :=
  if s.framer.outFrame + 1 = 0 then runDue order (openCycle s) else s

/-- The frame number goes on (R1). -/
def frameNumbered (order : ChannelOrder) (s : State) : State :=
  setOutFrame (s.framer.outFrame + 1) (frameEntered order s)

theorem startFrame_eq (order : ChannelOrder) (s : State) : startFrame order s =
    if (frameNumbered order s).framer.role = .clock ∨ framesSent (frameNumbered order s) = true then
      beginFrame order (s.framer.outFrame + 1) (frameNumbered order s) else frameNumbered order s := by
  have entered : (if (nextFrame s.framer.outFrame).val = 0 then runDue order (openCycle s) else s) =
      frameEntered order s := if_congr (frame_val_eq_zero_iff _) rfl rfl
  unfold startFrame
  dsimp only
  rw [entered]
  exact if_congr (by simp [frameNumbered, nextFrame]) rfl rfl

theorem exec_outboundFrameStart_of_may {order : ChannelOrder} {s : State} (may : frameMayStart s = true) :
    exec (.outboundFrameStart order) s = .next (startFrame order s) := congrArg _ (if_pos may)

theorem exec_outboundFrameStart_of_not {order : ChannelOrder} {s : State} (not : ¬frameMayStart s = true) :
    exec (.outboundFrameStart order) s = .next s := congrArg _ (if_neg not)

theorem frameNumbered_numbers (order : ChannelOrder) (s : State) :
    (frameNumbered order s).framer.role = s.framer.role ∧
    (frameNumbered order s).framer.outFrame = s.framer.outFrame + 1 ∧
    (frameNumbered order s).framer.dueFrame = s.framer.dueFrame ∧
    (frameNumbered order s).framer.cycle =
      if s.framer.outFrame + 1 = 0 ∧ s.framer.cycleOpen = false then s.framer.cycle + 1#8 else s.framer.cycle := by
  have numbers : (frameEntered order s).framer.numbers = if s.framer.outFrame + 1 = 0 then
      (openCycle s).framer.numbers else s.framer.numbers := by
    unfold frameEntered
    split
    · exact runDue_numbers ..
    · rfl
  have opened : (openCycle s).framer.numbers = (s.framer.role, s.framer.outFrame, s.framer.dueFrame,
      if s.framer.cycleOpen = false then s.framer.cycle + 1#8 else s.framer.cycle) := by
    rw [openCycle_eq, cycleOpened]
    cases s.framer.cycleOpen <;> rfl
  rw [opened] at numbers
  by_cases first : s.framer.outFrame + 1 = 0
  · rw [if_pos first] at numbers
    simp only [Framer.numbers, Prod.mk.injEq] at numbers
    obtain ⟨role, -, due, cycle⟩ := numbers
    refine ⟨role, rfl, due, cycle.trans ?_⟩
    simp only [first, true_and]
  · rw [if_neg first] at numbers
    simp only [Framer.numbers, Prod.mk.injEq] at numbers
    obtain ⟨role, -, due, cycle⟩ := numbers
    refine ⟨role, rfl, due, cycle.trans (if_neg fun h => first h.1).symm⟩

theorem startFrame_numbers (order : ChannelOrder) (s : State) :
    (startFrame order s).framer.numbers = (frameNumbered order s).framer.numbers := by
  rw [startFrame_eq]
  split
  · exact beginFrame_numbers ..
  · rfl

end Sys2Proof.Machine
end

section
/-! SUPPORT. The decision on a received cycle: its flags stored, its number and its BANK compared, the link's part and
the positions (R12 to R16, R18, R19, R33 to R36, R95). They settle O53. -/

namespace Sys2Proof.Machine

open Sys2Proof

/-! ## A position's message (R178) -/

theorem wordOf_toNat (lo hi : Byte) : (wordOf lo hi).toNat = lo.toNat + 256 * hi.toNat := by
  have low := lo.isLt
  rw [wordOf, BitVec.toNat_append, Nat.shiftLeft_eq, Nat.mul_comm, ← Nat.two_pow_add_eq_or_of_lt low]
  exact Nat.add_comm ..

theorem messageOf_spec (b0 b1 b2 b3 : Byte) :
    (messageOf b0 b1 b2 b3).target.toNat = b0.toNat / 16 ∧
    (messageOf b0 b1 b2 b3).kind = (if b0.toNat % 2 = 1 then .value else .order) ∧
    (messageOf b0 b1 b2 b3).code = b1 ∧
    (messageOf b0 b1 b2 b3).argument.toNat = b2.toNat + 256 * b3.toNat := by
  have first : ∀ b : Byte, (b.extractLsb' 4 4).toNat = b.toNat / 16 ∧
      (b.getLsbD 0 = true ↔ b.toNat % 2 = 1) := by decide
  obtain ⟨target, kind⟩ := first b0
  exact ⟨target, if_congr kind rfl rfl, rfl, wordOf_toNat b2 b3⟩

/-! ## The BANK of a status field (R95, R96) -/

/-- The end of an exchange, before its outcome is written (R80, R82). -/
def exchangeEnded (s : State) (b : Bool) : State :=
  let s := if s.exchange.state = .offered then removeOffer s else s
  let s := { s with exchange := s.exchange.toIdle }
  if b then s else lockEndClear s

theorem endExchange_eq (s : State) (k : PlanOutcomeKind) (r : Option RefusalReason) (b : Bool) :
    endExchange s k r b = writeOutcome (exchangeEnded s b) k r s.exchange.requester := rfl

theorem exchangeEnded_setFramer (s : State) (x : Framer) (b : Bool) :
    exchangeEnded { s with framer := x } b = { exchangeEnded s b with framer := x } := by
  unfold exchangeEnded
  by_cases offered : s.exchange.state = .offered
  · simp only [if_pos offered]
    cases b <;> rfl
  · simp only [if_neg offered]
    cases b <;> rfl

theorem exchangeEnded_framer (s : State) (b : Bool) : (exchangeEnded s b).framer = s.framer :=
  endExchange_framer s .linkLost none b

theorem writeOutcome_setFramer {s : State} {x : Framer} (cycle : x.cycle = s.framer.cycle) (k : PlanOutcomeKind)
    (r : Option RefusalReason) (q : Option Requester) :
    writeOutcome { s with framer := x } k r q = { writeOutcome s k r q with framer := x } := by
  simp only [writeOutcome, cycle]
  rfl

/-- What the end of an exchange does depends on the framer by its cycle number alone. -/
theorem endExchange_setFramer {s : State} {x : Framer} (cycle : x.cycle = s.framer.cycle) (k : PlanOutcomeKind)
    (r : Option RefusalReason) (b : Bool) :
    endExchange { s with framer := x } k r b = { endExchange s k r b with framer := x } := by
  rw [endExchange_eq, exchangeEnded_setFramer, writeOutcome_setFramer (by rw [exchangeEnded_framer, cycle])]
  rfl

theorem confirmMismatch_setFramer {s : State} {x : Framer} (cycle : x.cycle = s.framer.cycle)
    (role : x.role = s.framer.role) (bank : Bank) :
    confirmMismatch { s with framer := x } bank = { confirmMismatch s bank with framer := x } := by
  rw [confirmMismatch_eq, confirmMismatch_eq]
  dsimp only
  rw [role]
  have told : (if s.exchange.state ≠ .idle then
      endExchange { s with framer := x, exchange := { s.exchange with mismatch := true } } .mismatch none false
      else writeOutcome { s with framer := x, exchange := { s.exchange with mismatch := true } } .mismatch none
        (some .peer)) =
      { (if s.exchange.state ≠ .idle then
        endExchange { s with exchange := { s.exchange with mismatch := true } } .mismatch none false
        else writeOutcome { s with exchange := { s.exchange with mismatch := true } } .mismatch none
          (some .peer)) with framer := x } := by
    split
    · exact endExchange_setFramer (s := { s with exchange := { s.exchange with mismatch := true } }) cycle _ _ _
    · exact writeOutcome_setFramer (s := { s with exchange := { s.exchange with mismatch := true } }) cycle _ _ _
  rw [told]
  split <;> rfl

theorem compareBank_setFramer {s : State} {x : Framer} (cycle : x.cycle = s.framer.cycle)
    (role : x.role = s.framer.role) (bank reference : Bank) :
    compareBank { s with framer := x } bank reference = { compareBank s bank reference with framer := x } := by
  by_cases same : bank = reference
  · rw [compareBank_same _ same, compareBank_same _ same]
  · by_cases run : s.exchange.mismatchRun = 1
    · rw [compareBank_confirms same run, compareBank_confirms (s := { s with framer := x }) same run]
      exact confirmMismatch_setFramer (s := { s with exchange := { s.exchange with mismatchRun := 2 } }) cycle role bank
    · rw [compareBank_differs same run, compareBank_differs (s := { s with framer := x }) same run]

/-- What the comparison may change. -/
structure BankCompared (s t : State) : Prop where
  frame : t = { s with exchange := t.exchange, service := t.service, plan := t.plan, ports := t.ports }
  service : t.service = { s.service with origin := t.service.origin }

theorem BankCompared.trans {s t u : State} (h : BankCompared s t) (k : BankCompared t u) : BankCompared s u :=
  ⟨by rw [k.frame, h.frame], by rw [k.service, h.service]⟩

theorem BankCompared.exchange (s : State) (x : Exchange) : BankCompared s { s with exchange := x } := ⟨rfl, rfl⟩

theorem BankCompared.endExchange (s : State) (k : PlanOutcomeKind) (r : Option RefusalReason) (b : Bool) :
    BankCompared s (endExchange s k r b) := by
  refine ⟨endExchange_frame .., ?_⟩
  rw [endExchange_service]
  split <;> rfl

theorem BankCompared.writeOutcome (s : State) (k : PlanOutcomeKind) (r : Option RefusalReason)
    (q : Option Requester) : BankCompared s (writeOutcome s k r q) := ⟨rfl, rfl⟩

theorem BankCompared.confirmMismatch (s : State) (bank : Bank) : BankCompared s (confirmMismatch s bank) := by
  have marked := BankCompared.exchange s { s.exchange with mismatch := true }
  unfold Machine.confirmMismatch
  dsimp only
  split <;> split
  · exact (marked.trans (.endExchange ..)).trans (.exchange ..)
  · exact marked.trans (.endExchange ..)
  · exact (marked.trans (.writeOutcome ..)).trans (.exchange ..)
  · exact marked.trans (.writeOutcome ..)

theorem BankCompared.compareBank (s : State) (bank reference : Bank) :
    BankCompared s (compareBank s bank reference) := by
  by_cases same : bank = reference
  · rw [compareBank_same _ same]
    exact .exchange ..
  · by_cases run : s.exchange.mismatchRun = 1
    · rw [compareBank_confirms same run]
      exact (BankCompared.exchange s _).trans (.confirmMismatch ..)
    · rw [compareBank_differs same run]
      exact .exchange ..

/-! ## The entry into DOWN, from states that it makes alike (R20, R40) -/

/-- The entry clears what the decision has written before it. -/
theorem enterDown_congr (order : ChannelOrder) {s t : State}
    (alike : ({ s with framer := s.framer.entersDown, link := s.link.entersDown } : State) =
      { t with framer := t.framer.entersDown, link := t.link.entersDown }) : enterDown order s = enterDown order t := by
  have announced : announceDown order s = announceDown order t :=
    congrArg (fun u : State => channelsDown order
      (Machine.exchangeDown (Machine.serviceDown { u with plan := u.plan.followActive }))) alike
  unfold enterDown
  rw [announced]

/-! ## The flags and the numbers (R12, R16, R18, R19) -/

/-- The framer after the flags are stored and the number compared. -/
def comparedFramer (flags v own : Byte) (s : State) : Framer := { s.framer with
  peerFlags := flags
  farEnd := if (s.link.state.counted && flagSet flags .farError && !s.framer.badChecks) = true then
    countUp s.framer.farEnd else s.framer.farEnd
  cycle := if s.framer.role = .follow ∧ s.link.state.counted = true ∧ v ≠ own ∧ s.framer.disagreeRun ≠ 0 then v + 1#8
    else s.framer.cycle
  disagreeRun := if s.framer.role = .follow ∧ s.link.state.counted = true then
      if v ≠ own ∧ s.framer.disagreeRun = 0 then 1 else 0
    else s.framer.disagreeRun }

theorem compareNumber_storeFlags (flags v own : Byte) (s : State) :
    compareNumber v own (storeFlags flags s) = { s with framer := comparedFramer flags v own s } := by
  have acts : ((storeFlags flags s).framer.role == .follow && (storeFlags flags s).link.state.counted) = true ↔
      s.framer.role = .follow ∧ s.link.state.counted = true := by
    rw [Bool.and_eq_true, beq_iff_eq]
    rfl
  unfold compareNumber comparedFramer
  by_cases following : s.framer.role = .follow ∧ s.link.state.counted = true
  · rw [if_pos (acts.2 following), if_pos following]
    by_cases same : v = own
    · rw [if_pos same, if_neg (fun h => h.2.2.1 same), if_neg (fun h => h.1 same)]
      rfl
    · rw [if_neg same]
      by_cases first : s.framer.disagreeRun = 0
      · have stays : ¬(s.framer.role = .follow ∧ s.link.state.counted = true ∧ v ≠ own ∧ s.framer.disagreeRun ≠ 0) :=
          fun h => h.2.2.2 first
        rw [if_neg stays, if_pos (⟨same, first⟩ : v ≠ own ∧ s.framer.disagreeRun = 0)]
        exact if_pos first
      · have again : ¬(v ≠ own ∧ s.framer.disagreeRun = 0) := fun h => first h.2
        rw [if_neg again, if_pos (⟨following.1, following.2, same, first⟩ : s.framer.role = .follow ∧
          s.link.state.counted = true ∧ v ≠ own ∧ s.framer.disagreeRun ≠ 0)]
        exact if_neg first
  · rw [if_neg (mt acts.1 following), if_neg following, if_neg (fun h => following ⟨h.1, h.2.1⟩)]
    rfl

theorem countUp_eq (n : Byte) : countUp n = if n.toNat < 255 then n + 1#8 else 255#8 := by
  revert n
  decide

theorem LinkState.counted_iff_carries (l : LinkState) :
    l.counted = true ↔ l = .synced ∨ l = .up ∨ l = .leaving := by
  cases l <;> decide

/-! ## A rejected cycle (R13 to R15) -/

theorem decideCycle_of_none {order : ChannelOrder} {s : State} (none : s.framer.pendingCheck = none) :
    decideCycle order s = s := by
  rw [decideCycle, none]

theorem decideCycle_of_rejected {order : ChannelOrder} {s : State} {p : PendingCheck}
    (pending : s.framer.pendingCheck = some p) (differs : p.check ≠ s.framer.receiving.checkField)
    (sees : s.framer.checkBlind = false) : decideCycle order s = rejectCycle s := by
  rw [decideCycle, pending]
  exact if_neg (by simp [differs, sees])

theorem decideCycle_of_accepted {order : ChannelOrder} {s : State} {p : PendingCheck}
    (pending : s.framer.pendingCheck = some p)
    (accepts : p.check = s.framer.receiving.checkField ∨ s.framer.checkBlind = true) :
    decideCycle order s = acceptCycle order p s := by
  rw [decideCycle, pending]
  exact if_pos (by simpa using accepts)

/-! ## The link's part (R33 to R36) -/

/-- The state that the link's part begins from: the flags stored, the number and the BANK compared. -/
def cycleCompared (flags v own : Byte) (reference : Bank) (s : State) : State :=
  { (if s.link.state = .up then compareBank { s with framer := { s.framer with
      cycle := (comparedFramer flags v own s).cycle } } (bankOfFlag (flagSet flags .bank)) reference
    else s) with framer := comparedFramer flags v own s }

theorem passBank_compareNumber (flags v own : Byte) (reference : Bank) (s : State) :
    passBank flags reference (compareNumber v own (storeFlags flags s)) = cycleCompared flags v own reference s := by
  have commutes := compareBank_setFramer (s := { s with framer := { s.framer with
    cycle := (comparedFramer flags v own s).cycle } }) (x := comparedFramer flags v own s) rfl rfl
    (bankOfFlag (flagSet flags .bank)) reference
  rw [compareNumber_storeFlags]
  unfold cycleCompared
  by_cases up : s.link.state = .up
  · rw [if_pos up]
    exact (if_pos up).trans commutes
  · rw [if_neg up]
    exact if_neg up

/-- The peer's demand and its readiness stored (R23). -/
def peerTold (flags : Byte) (s : State) : State :=
  { s with link := { s.link with peerDemand := flagSet flags .demand, peerReady := flagSet flags .ready } }

theorem linkAccepts_of_clash {order : ChannelOrder} {flags v : Byte} {s : State} (clock : s.framer.role = .clock)
    (clash : flagSet flags .clockRole = true) : linkAccepts order flags v s = roleClash order (peerTold flags s) := by
  refine if_pos ?_
  rw [clash, Bool.and_true, beq_iff_eq]
  exact clock

/-- SYNCED entered from ALIGNING (R18, R33). -/
def syncedEntered (v : Byte) (s : State) : State := if s.link.state = .aligning then enterSynced v s else s

theorem linkAccepts_of_peace {order : ChannelOrder} {flags v : Byte} {s : State}
    (peace : ¬(s.framer.role = .clock ∧ flagSet flags .clockRole = true)) : linkAccepts order flags v s =
      applyLeaving flags (applyReady flags (syncedEntered v (peerTold flags s))) := by
  refine if_neg ?_
  rw [Bool.and_eq_true, beq_iff_eq]
  exact peace

/-- UP entered from SYNCED with READY received (R34, R35). -/
theorem applyReady_eq (flags : Byte) (s : State) : applyReady flags s =
    if s.link.state = .synced ∧ flagSet flags .ready = true then enterUp s else s :=
  if_congr (by simp) rfl rfl

/-- LEAVING entered from SYNCED and UP when the peer leaves or nobody demands (R36). -/
theorem applyLeaving_eq (flags : Byte) (s : State) : applyLeaving flags s =
    if (s.link.state = .synced ∨ s.link.state = .up) ∧
      (flagSet flags .leaving = true ∨ (s.link.demands = false ∧ s.link.peerDemand = false)) then enterLeaving s
    else s := by
  have unwanted : leaveIfUnwanted s = if s.link.demands = false ∧ s.link.peerDemand = false then enterLeaving s else s :=
    if_congr (by simp) rfl rfl
  unfold applyLeaving
  rw [unwanted]
  by_cases open_ : s.link.state = .synced ∨ s.link.state = .up
  · by_cases leaving : flagSet flags .leaving = true
    · rw [if_pos (by simpa using open_), if_pos leaving, if_pos ⟨open_, .inl leaving⟩]
    · rw [if_pos (by simpa using open_), if_neg leaving]
      exact if_congr (by simp [open_, leaving]) rfl rfl
  · rw [if_neg (by simpa using open_), if_neg fun h => open_ h.1]

end Sys2Proof.Machine
end

section
/-! SUPPORT. What an accepted cycle does to the link, the framer and the exchange (R12, R23, R33 to R36, R53, R95). They
settle O53. -/

namespace Sys2Proof.Machine

open Sys2Proof

/-! ## The link's part, on the link alone (R23, R33 to R36) -/

/-- The peer's demand and readiness stored (R23). -/
def Link.told (flags : Byte) (l : Link) : Link :=
  { l with peerDemand := flagSet flags .demand, peerReady := flagSet flags .ready }

/-- ALIGNING is over (R33). -/
def Link.syncs (l : Link) : Link := if l.state = .aligning then
  { l with state := .synced, alignTimer := false, readyWait := some 0 } else l

/-- READY takes SYNCED to UP (R34, R35). -/
def Link.readies (flags : Byte) (l : Link) : Link := if l.state = .synced ∧ flagSet flags .ready = true then
  { l with state := .up, tryCount := 0, readyWait := none } else l

/-- The peer leaves, or neither end demands the link (R36). -/
abbrev Link.goes (flags : Byte) (l : Link) : Prop := (l.state = .synced ∨ l.state = .up) ∧
  (flagSet flags .leaving = true ∨ (l.demands = false ∧ l.peerDemand = false))

/-- LEAVING entered. -/
def Link.leaves (l : Link) : Link := { l with state := .leaving, leavingCount := some 0, readyWait := none }

theorem syncedEntered_eq (v : Byte) (s : State) : syncedEntered v s = { s with
    link := s.link.syncs
    framer := { s.framer with cycle := if s.link.state = .aligning ∧ s.framer.role = .follow then v + 1#8
      else s.framer.cycle } } := by
  unfold syncedEntered Link.syncs enterSynced
  by_cases aligning : s.link.state = .aligning
  · rw [if_pos aligning, if_pos aligning]
    by_cases follow : s.framer.role = .follow
    · rw [if_pos (⟨aligning, follow⟩ : s.link.state = .aligning ∧ s.framer.role = .follow)]
      exact if_pos follow
    · rw [if_neg (fun h => follow h.2 : ¬(s.link.state = .aligning ∧ s.framer.role = .follow))]
      exact if_neg follow
  · rw [if_neg aligning, if_neg aligning,
      if_neg (fun h => aligning h.1 : ¬(s.link.state = .aligning ∧ s.framer.role = .follow))]

theorem applyReady_frame (flags : Byte) (s : State) : applyReady flags s = { s with
    link := s.link.readies flags
    ports := if s.link.state = .synced ∧ flagSet flags .ready = true then (s.raiseAll .link).ports else s.ports } := by
  rw [applyReady_eq]
  unfold Link.readies
  split <;> rfl

theorem applyLeaving_frame (flags : Byte) (s : State) : applyLeaving flags s = { s with
    link := if s.link.goes flags then s.link.leaves else s.link
    exchange := if s.link.goes flags then { s.exchange with mismatchRun := 0 } else s.exchange } := by
  refine (applyLeaving_eq flags s).trans ?_
  split <;> rfl

/-- The link after an accepted status field, but for an entry into LEAVING. -/
def Link.moved (flags : Byte) (l : Link) : Link := ((l.told flags).syncs).readies flags

/-- The framer after an accepted status field. -/
def acceptedFramer (flags v own : Byte) (s : State) : Framer := { comparedFramer flags v own s with
  cycle := if s.link.state = .aligning ∧ s.framer.role = .follow then v + 1#8 else (comparedFramer flags v own s).cycle }

/-- An accepted status field without a role clash, on the state whose BANK was compared. -/
def statusAccepted (flags v own : Byte) (s c : State) : State := { c with
  framer := acceptedFramer flags v own s
  link := if (s.link.moved flags).goes flags then (s.link.moved flags).leaves else s.link.moved flags
  exchange := if (s.link.moved flags).goes flags then { c.exchange with mismatchRun := 0 } else c.exchange
  ports := if ((s.link.told flags).syncs).state = .synced ∧ flagSet flags .ready = true then (c.raiseAll .link).ports
    else c.ports }

theorem linkAccepts_eq {order : ChannelOrder} {flags v own : Byte} {s c : State}
    (peace : ¬(s.framer.role = .clock ∧ flagSet flags .clockRole = true))
    (framer : c.framer = comparedFramer flags v own s) (link : c.link = s.link) :
    linkAccepts order flags v c = statusAccepted flags v own s c := by
  have role : c.framer.role = s.framer.role := by rw [framer]; rfl
  rw [linkAccepts_of_peace (by rw [role]; exact peace), applyLeaving_frame, applyReady_frame, syncedEntered_eq]
  unfold statusAccepted acceptedFramer Link.moved peerTold
  dsimp only
  rw [framer, link]
  rfl

section Accepted
variable (flags v own : Byte) (reference : Bank) (s : State)

theorem cycleCompared_link : (cycleCompared flags v own reference s).link = s.link := by
  unfold cycleCompared
  split
  · dsimp only
    rw [(BankCompared.compareBank ..).frame]
  · rfl

/-- Neither leaves the link's part its framing, but for a role clash. -/
theorem acceptCycle_eq {order : ChannelOrder} {p : PendingCheck} {s : State} (framed : s.framer.framed = true)
    (peace : ¬(s.framer.role = .clock ∧ flagSet p.cycle.flags .clockRole = true)) :
    acceptCycle order p s = handPositions p.cycle (statusAccepted p.cycle.flags p.cycle.number p.localCycle s
      (cycleCompared p.cycle.flags p.cycle.number p.localCycle p.cycle.reference s)) := by
  have linked := linkAccepts_eq (order := order) (flags := p.cycle.flags) (v := p.cycle.number) (own := p.localCycle)
    (c := cycleCompared p.cycle.flags p.cycle.number p.localCycle p.cycle.reference s) peace rfl
    (cycleCompared_link ..)
  unfold acceptCycle
  dsimp only
  rw [passBank_compareNumber, linked]
  exact if_pos framed

/-- A cycle number that stays leaves the comparison as this end's state has it. -/
theorem cycleCompared_of_cycle {flags v own : Byte} {reference : Bank} {s : State}
    (cycle : (comparedFramer flags v own s).cycle = s.framer.cycle) : cycleCompared flags v own reference s =
      { (if s.link.state = .up then compareBank s (bankOfFlag (flagSet flags .bank)) reference else s) with
        framer := comparedFramer flags v own s } := by
  unfold cycleCompared
  rw [cycle]

theorem heard_same {s : State} {bank reference : Bank} :
    (if s.link.state = .up then compareBank s bank reference else s).framer = s.framer ∧
      (if s.link.state = .up then compareBank s bank reference else s).link = s.link := by
  split
  · rw [(BankCompared.compareBank ..).frame]
    exact ⟨rfl, rfl⟩
  · exact ⟨rfl, rfl⟩

theorem comparedFramer_entersDown {flags v own : Byte} {s : State}
    (cycle : (comparedFramer flags v own s).cycle = s.framer.cycle) :
    (comparedFramer flags v own s).entersDown = s.framer.entersDown := by
  have cleared : (comparedFramer flags v own s).entersDown =
    { s.framer.entersDown with cycle := (comparedFramer flags v own s).cycle } := rfl
  rw [cleared, cycle]
  rfl

/-- A role clash ends the decision in DOWN, with nothing handed on (R33). -/
theorem acceptCycle_of_clash {order : ChannelOrder} {p : PendingCheck} {s : State} (clock : s.framer.role = .clock)
    (clash : flagSet p.cycle.flags .clockRole = true) : acceptCycle order p s = (enterDown order
      { (if s.link.state = .up then compareBank s (bankOfFlag (flagSet p.cycle.flags .bank)) p.cycle.reference else s)
        with link := { s.link with tryCount := 5, lastFailure := .roleClash } }).raiseAll .link := by
  have role : (cycleCompared p.cycle.flags p.cycle.number p.localCycle p.cycle.reference s).framer.role = .clock := clock
  have cycle : (comparedFramer p.cycle.flags p.cycle.number p.localCycle s).cycle = s.framer.cycle :=
    if_neg fun h => absurd (clock.symm.trans h.1) (by decide)
  have fallen : linkAccepts order p.cycle.flags p.cycle.number
      (cycleCompared p.cycle.flags p.cycle.number p.localCycle p.cycle.reference s) = (enterDown order
      { (if s.link.state = .up then compareBank s (bankOfFlag (flagSet p.cycle.flags .bank)) p.cycle.reference else s)
        with link := { s.link with tryCount := 5, lastFailure := .roleClash } }).raiseAll .link := by
    rw [linkAccepts_of_clash role clash]
    rw [cycleCompared_of_cycle cycle]
    have heard := heard_same (s := s) (bank := bankOfFlag (flagSet p.cycle.flags .bank)) (reference := p.cycle.reference)
    generalize (if s.link.state = .up then compareBank s (bankOfFlag (flagSet p.cycle.flags .bank)) p.cycle.reference
      else s) = h at heard ⊢
    obtain ⟨framer, link⟩ := heard
    refine congrArg (State.raiseAll · .link) (enterDown_congr order ?_)
    have cleared : (comparedFramer p.cycle.flags p.cycle.number p.localCycle s).entersDown = h.framer.entersDown := by
      rw [framer, ← comparedFramer_entersDown cycle]
    have fell : (Link.entersDown { (h.link.told p.cycle.flags) with tryCount := 5, lastFailure := .roleClash }) =
        Link.entersDown { s.link with tryCount := 5, lastFailure := .roleClash } := by rw [link]; rfl
    exact congrArg₂ (fun (x : Framer) (l : Link) => ({ h with framer := x, link := l } : State)) cleared fell
  have unframed := (FramerCleared.roleClash order (peerTold p.cycle.flags
    (cycleCompared p.cycle.flags p.cycle.number p.localCycle p.cycle.reference s))).framed
  rw [← linkAccepts_of_clash role clash, fallen] at unframed
  unfold acceptCycle
  dsimp only
  rw [passBank_compareNumber, fallen, unframed]
  rfl

end Accepted

theorem Link.downOrAnswering_counts (willing : Bool) (l : Link) :
    (l.downOrAnswering willing).tryCount = l.tryCount ∧ (l.downOrAnswering willing).lastFailure = l.lastFailure := by
  unfold Link.downOrAnswering
  split <;> exact ⟨rfl, rfl⟩

/-! ## The link after the status field -/

/-- The state in which READY is looked at: ALIGNING is over (R33, R34). -/
def LinkState.alignedState (l : LinkState) : LinkState := if l = .aligning then .synced else l

/-- The state in which the leaving rules are looked at (R34, R36). -/
def LinkState.readyState (flags : Byte) (l : LinkState) : LinkState :=
  if l.alignedState = .synced ∧ flagSet flags .ready = true then .up else l.alignedState

theorem Link.syncs_state (l : Link) : l.syncs.state = l.state.alignedState := by
  unfold Link.syncs LinkState.alignedState
  split <;> rfl

theorem Link.readies_eq (flags : Byte) (l : Link) : (l.syncs).readies flags =
    if l.state.alignedState = .synced ∧ flagSet flags .ready = true then
      { l.syncs with state := .up, tryCount := 0, readyWait := none } else l.syncs :=
  if_congr (by rw [Link.syncs_state]) rfl rfl

theorem Link.moved_state (flags : Byte) (l : Link) : (l.moved flags).state = l.state.readyState flags := by
  unfold Link.moved
  rw [Link.readies_eq]
  unfold LinkState.readyState
  split
  · exact (if_pos ‹_›).symm
  · exact (Link.syncs_state _).trans (if_neg ‹_›).symm

/-- The demands stand as the claims and the peer have them. -/
theorem Link.moved_demands (flags : Byte) (l : Link) : (l.moved flags).claims = l.claims ∧
    (l.moved flags).peerDemand = flagSet flags .demand ∧ (l.moved flags).peerReady = flagSet flags .ready := by
  unfold Link.moved Link.readies Link.syncs
  split <;> split <;> exact ⟨rfl, rfl, rfl⟩

/-- Somebody wants the link, and the peer does not leave (R36). -/
abbrev Link.wanted (flags : Byte) (l : Link) : Prop := flagSet flags .leaving = false ∧
  ((l.claims.p1 || l.claims.p2 || l.claims.p3) = true ∨ flagSet flags .demand = true)

theorem Link.goes_iff (flags : Byte) (l : Link) : (l.moved flags).goes flags ↔
    (l.state.readyState flags = .synced ∨ l.state.readyState flags = .up) ∧ ¬l.wanted flags := by
  obtain ⟨claims, demand, -⟩ := l.moved_demands flags
  have demands : (l.moved flags).demands = (l.claims.p1 || l.claims.p2 || l.claims.p3) := by rw [Link.demands, claims]
  unfold Link.goes Link.wanted
  rw [Link.moved_state, demands, demand]
  refine and_congr_right fun _ => ?_
  cases flagSet flags .leaving <;> cases (l.claims.p1 || l.claims.p2 || l.claims.p3) <;>
    cases flagSet flags .demand <;> decide

/-- In the states of rest of the link's part nothing but the peer's two flags is stored. -/
theorem Link.moved_of_other {flags : Byte} {l : Link} (notSynced : l.state.readyState flags ≠ .synced)
    (notUp : l.state.readyState flags ≠ .up) : l.moved flags = l.told flags := by
  have unready : ¬(l.state.alignedState = .synced ∧ flagSet flags .ready = true) := fun h => notUp (if_pos h)
  have apart : l.state.alignedState ≠ .synced := by
    rw [LinkState.readyState, if_neg unready] at notSynced
    exact notSynced
  have stays : ¬l.state = .aligning := fun aligning => apart (if_pos aligning)
  unfold Link.moved
  rw [Link.readies_eq]
  exact (if_neg unready).trans (if_neg stays)

/-! ## The positions of a cycle that confirm nothing (R53) -/

theorem positionReceived_of_unconfirmed {s : State} {m : Message} (unconfirmed : ¬lookedAlike s m 2) (p : Position)
    (c : Byte) : (positionReceived s p c m).exchange = s.exchange ∧
      (positionReceived s p c m).service.look = some (nextLook s.service.look m) := by
  rw [positionReceived_unconfirmed c p fun h => unconfirmed h.1]
  split
  · unfold reportMade
    dsimp only [State.raise_exchange, State.raise_service]
    split <;> exact ⟨rfl, rfl⟩
  · exact ⟨rfl, rfl⟩

theorem handPositions_exchange {x : ReceivedCycle} {s : State} (fresh : s.service.look = none) :
    (handPositions x s).exchange = s.exchange := by
  obtain ⟨first, look⟩ := positionReceived_of_unconfirmed (s := s) (m := x.messageA) (by
    rintro ⟨r, looked, -⟩
    simp [fresh] at looked) .a x.number
  obtain ⟨second, -⟩ := positionReceived_of_unconfirmed (s := positionReceived s .a x.number x.messageA)
    (m := x.messageB) (by
      rintro ⟨r, looked, -, length⟩
      rw [look, fresh] at looked
      cases looked
      exact absurd (show (1 : Nat) = 2 from length) (by decide)) .b x.number
  exact second.trans first

/-- A rejected cycle breaks the look run, and is counted in the states that carry traffic (R13 to R15). -/
theorem rejectCycle_eq (s : State) : rejectCycle s =
    if s.link.state.counted = true then { breakLook s with framer := { s.framer with
      nearEnd := countUp s.framer.nearEnd, farErrorToSend := true } } else breakLook s := rfl

/-- Handling the positions of an accepted cycle (R12, R53). -/
theorem handPositions_step (x : ReceivedCycle) (s : State) : PositionStep s (handPositions x s) :=
  (PositionStep.positionReceived ..).trans (.positionReceived ..)

section Framer
variable {flags v own : Byte} {s : State}

theorem acceptedFramer_farEnd_counted (counted : s.link.state.counted = true) (error : flagSet flags .farError = true)
    (checks : s.framer.badChecks = false) : (acceptedFramer flags v own s).farEnd = countUp s.framer.farEnd :=
  if_pos (by simp [counted, error, checks])

theorem acceptedFramer_farEnd_kept (quiet : s.link.state.counted = false ∨ flagSet flags .farError = false ∨
    s.framer.badChecks = true) : (acceptedFramer flags v own s).farEnd = s.framer.farEnd :=
  if_neg (by rcases quiet with h | h | h <;> simp [h])

theorem acceptedFramer_cycle_clock (clock : s.framer.role = .clock) :
    (acceptedFramer flags v own s).cycle = s.framer.cycle :=
  (if_neg fun h => absurd (clock.symm.trans h.2) (by decide)).trans
    (if_neg fun h => absurd (clock.symm.trans h.1) (by decide))

theorem acceptedFramer_of_counted (counted : s.link.state.counted = true) (follow : s.framer.role = .follow) :
    (acceptedFramer flags v own s).cycle = (if v ≠ own ∧ s.framer.disagreeRun ≠ 0 then v + 1#8 else s.framer.cycle) ∧
    (acceptedFramer flags v own s).disagreeRun = if v ≠ own ∧ s.framer.disagreeRun = 0 then 1 else 0 := by
  have traffic : s.link.state ≠ .aligning := by
    rintro aligning
    rw [aligning] at counted
    exact absurd counted (by decide)
  refine ⟨(if_neg fun h => traffic h.1).trans (if_congr ?_ rfl rfl), if_pos ⟨follow, counted⟩⟩
  rw [and_iff_right follow, and_iff_right counted]

end Framer

/-- The comparison's outcome, seen through the status field (R95). -/
theorem cycleCompared_eq {flags v own c : Byte} {reference : Bank} {s : State}
    (cycle : s.link.state = .up → c = (comparedFramer flags v own s).cycle) : cycleCompared flags v own reference s =
      { (if s.link.state = .up then compareBank { s with framer := { s.framer with cycle := c } }
        (bankOfFlag (flagSet flags .bank)) reference else s) with framer := comparedFramer flags v own s } := by
  unfold cycleCompared
  by_cases up : s.link.state = .up
  · rw [if_pos up, if_pos up, cycle up]
  · rw [if_neg up, if_neg up]

theorem cycleCompared_frame (flags v own : Byte) (reference : Bank) (s : State) :
    BankCompared { s with framer := comparedFramer flags v own s } (cycleCompared flags v own reference s) := by
  rw [← passBank_compareNumber, compareNumber_storeFlags]
  unfold passBank
  split
  · exact .compareBank ..
  · exact ⟨rfl, rfl⟩

/-- Settles O53: the rejection, the clash, and the acceptance by the link's part, then the positions. -/
theorem decisionAcceptsOrRejects : Obligations.DecisionAcceptsOrRejects := by
  refine ⟨messageOf_spec, ?_⟩
  intro order s carries up
  refine ⟨decideCycle_of_none, ?_⟩
  intro p pending framed sent broken
  have carried : s.link.state.counted = true ↔ carries := s.link.state.counted_iff_carries
  refine ⟨fun differs sees => ⟨fun quiet => ?_, fun counts => ?_⟩, ?accepted⟩
  · rw [decideCycle_of_rejected pending differs sees, rejectCycle_eq, if_neg (mt carried.1 quiet)]
    rfl
  · rw [decideCycle_of_rejected pending differs sees, rejectCycle_eq, if_pos (carried.2 counts), countUp_eq]
    rfl
  case accepted =>
    intro accepts t flags v demanded aligned ready wanted bank told synced rises raised
    have decided : t = acceptCycle order p s := decideCycle_of_accepted pending accepts
    refine ⟨fun clock clash => ?clash, fun peace => ?peace⟩
    case clash =>
      have fell : t = _ := decided.trans (acceptCycle_of_clash clock clash)
      obtain ⟨unframed, tell⟩ := enterDown_told order
        { (if s.link.state = .up then compareBank s bank p.cycle.reference else s) with
          link := { s.link with tryCount := 5, lastFailure := .roleClash } }
      obtain ⟨tried, reason⟩ := Link.downOrAnswering_counts (willAnswer
        { (if s.link.state = .up then compareBank s bank p.cycle.reference else s) with
          link := { s.link with tryCount := 5, lastFailure := .roleClash } })
          { s.link with tryCount := 5, lastFailure := .roleClash }
      have link := enterDown_link order { (if s.link.state = .up then compareBank s bank p.cycle.reference else s) with
          link := { s.link with tryCount := 5, lastFailure := .roleClash } }
      rw [fell]
      refine ⟨?_, ?_, unframed, tell, rfl⟩
      · exact (congrArg Link.lastFailure link).trans reason
      · exact (congrArg Link.tryCount link).trans tried
    case peace =>
      let c := cycleCompared flags v p.localCycle p.cycle.reference s
      let u := statusAccepted flags v p.localCycle s c
      have handed : t = handPositions p.cycle u := decided.trans (acceptCycle_eq framed peace)
      have step : PositionStep u t := by
        rw [handed]
        exact handPositions_step ..
      have framer := step.framer
      have link : t.link = if (s.link.moved flags).goes flags then (s.link.moved flags).leaves else s.link.moved flags :=
        step.link
      have moved : s.link.moved flags = raised := (s.link.told flags).readies_eq flags
      have goes : (s.link.moved flags).goes flags ↔ (ready = .synced ∨ ready = .up) ∧ ¬wanted := s.link.goes_iff flags
      have stays (h : (ready = .synced ∨ ready = .up) → wanted) : t.link = s.link.moved flags := by
        rw [link, if_neg fun going => (goes.1 going).2 (h (goes.1 going).1)]
      have leaves (r : ready = .synced ∨ ready = .up) (unwanted : ¬wanted) : t.link = raised.leaves := by
        rw [link, if_pos (goes.2 ⟨r, unwanted⟩), moved]
      have flagsKept : t.link.peerDemand = flagSet flags .demand ∧ t.link.peerReady = flagSet flags .ready := by
        obtain ⟨-, demand, readied⟩ := s.link.moved_demands flags
        rw [link]
        split <;> exact ⟨demand, readied⟩
      have cycle : t.framer.cycle = (acceptedFramer flags v p.localCycle s).cycle := by rw [framer]; rfl
      have run : t.framer.disagreeRun = (acceptedFramer flags v p.localCycle s).disagreeRun := by rw [framer]; rfl
      have farEnd : t.framer.farEnd = (acceptedFramer flags v p.localCycle s).farEnd := by rw [framer]; rfl
      have frame : BankCompared { s with framer := comparedFramer flags v p.localCycle s } c := cycleCompared_frame ..
      have fresh' (fresh : s.service.look = none) : u.service.look = none := by
        have look : c.service.look = s.service.look := by rw [frame.service]
        exact look.trans fresh
      have compares (upState : s.link.state = .up) :
          t.framer.cycle = (comparedFramer flags v p.localCycle s).cycle :=
        cycle.trans (if_neg fun h => absurd (upState.symm.trans h.1) (by decide))
      have risen (q : Port) : u.port q =
          if aligned = .synced ∧ flagSet flags .ready = true then (c.port q).raise .link else c.port q := by
        have ports : u.ports = if aligned = .synced ∧ flagSet flags .ready = true then (c.raiseAll .link).ports
            else c.ports := if_congr (by rw [Link.syncs_state]; rfl) rfl rfl
        rw [State.port, ports]
        split
        · exact State.raiseAll_port ..
        · rfl
      refine ⟨by rw [framer]; rfl, by rw [framer]; rfl, by rw [framer]; rfl, fun counts => ?_, fun quiet => ?_,
        fun counts error checks => ?_, fun r wants => (stays fun _ => wants).trans moved,
        fun r unwanted => leaves r unwanted, fun notSynced notUp => ?_, fun rises q => ?_, flagsKept.1, flagsKept.2,
        fun r wants => ?_, fun r unwanted => congrArg Link.state (leaves r unwanted), fun notSynced notUp => ?_,
        fun clock => cycle.trans (acceptedFramer_cycle_clock clock), fun follow aligning => ?_, fun follow counts same => ?_,
        fun follow counts differs first => ?_, fun follow counts differs again => ?_, ?handed, fun upState wants fresh same => ?_,
        fun notUp rises wants fresh => ?_⟩
      · exact farEnd.trans ((acceptedFramer_farEnd_counted (carried.2 counts.1) counts.2.1 counts.2.2).trans (countUp_eq _))
      · refine farEnd.trans (acceptedFramer_farEnd_kept ?_)
        exact quiet.imp (fun h => Bool.eq_false_iff.2 (mt carried.1 h)) .inl
      · exact farEnd.trans (acceptedFramer_farEnd_kept (.inr (.inr checks)))
      · exact (stays fun r => (r.elim notSynced notUp).elim).trans (Link.moved_of_other notSynced notUp)
      · refine step.held q .link ?_
        rw [risen, if_pos rises, PortState.raise_holds]
        simp
      · exact (congrArg Link.state (stays fun _ => wants)).trans (s.link.moved_state flags)
      · exact (congrArg Link.state (stays fun r => (r.elim notSynced notUp).elim)).trans (s.link.moved_state flags)
      · exact cycle.trans (if_pos ⟨aligning, follow⟩)
      · obtain ⟨number, count⟩ := acceptedFramer_of_counted (flags := flags) (v := v) (own := p.localCycle)
          (carried.2 counts) follow
        exact ⟨cycle.trans (number.trans (if_neg fun h => h.1 same)), run.trans (count.trans (if_neg fun h => h.1 same))⟩
      · obtain ⟨number, count⟩ := acceptedFramer_of_counted (flags := flags) (v := v) (own := p.localCycle)
          (carried.2 counts) follow
        exact ⟨cycle.trans (number.trans (if_neg fun h => h.2 first)), run.trans (count.trans (if_pos ⟨differs, first⟩))⟩
      · obtain ⟨number, count⟩ := acceptedFramer_of_counted (flags := flags) (v := v) (own := p.localCycle)
          (carried.2 counts) follow
        exact ⟨cycle.trans (number.trans (if_pos ⟨differs, again⟩)), run.trans (count.trans (if_neg fun h => again h.2))⟩
      case handed =>
        refine ⟨u, ?_⟩
        intro position
        refine ⟨handed, ?_⟩
        intro compared
        have same : c = { compared with framer := comparedFramer flags v p.localCycle s } := cycleCompared_eq compares
        have exchange : c.exchange = compared.exchange := by rw [same]
        have service : c.service = compared.service := by rw [same]
        have plan : c.plan = compared.plan := by rw [same]
        have port (q : Port) : c.port q = compared.port q := by rw [same]; rfl
        refine ⟨?_, ?_, plan, step.link.symm, ?_, fun q => ?_, ?_⟩
        · rw [← exchange]
          exact if_congr goes rfl rfl
        · rw [← service]
          exact frame.service
        · rw [cycle, run, farEnd]
          rfl
        · rw [← port]
          exact risen q
        · exact congrArg (statusAccepted flags v p.localCycle s) frame.frame
      · have number : (comparedFramer flags v p.localCycle s).cycle = s.framer.cycle := by
          refine if_neg fun h => same.elim (fun clock => ?_) h.2.2.1
          exact absurd (clock.symm.trans h.1) (by decide)
        rw [handed, handPositions_exchange (fresh' fresh)]
        refine (if_neg fun going => (goes.1 going).2 wants).trans ?_
        have heard : c = _ := cycleCompared_of_cycle number
        rw [heard, if_pos upState]
        rfl
      · rw [handed, handPositions_exchange (fresh' fresh)]
        refine (if_neg fun going => (goes.1 going).2 wants).trans ?_
        have heard : c = _ := cycleCompared_eq compares
        rw [heard, if_neg notUp]

end Sys2Proof.Machine
end

section
/-! SUPPORT. The frame read at its place (R1, R4, R5, R11, R12, R18, R69, R138). They settle O51. -/

namespace Sys2Proof.Machine

open Sys2Proof

/-! ## The decision leaves the frame due (R5, R12) -/

theorem enterDown_due (order : ChannelOrder) (s : State) :
    (enterDown order s).framer.dueFrame = s.framer.dueFrame :=
  congrArg (fun x : Role × FrameNo × FrameNo × Byte => x.2.2.1) (enterDown_numbers order s)

theorem rejectCycle_due (s : State) : (rejectCycle s).framer.dueFrame = s.framer.dueFrame := by
  rw [rejectCycle_eq]
  split <;> rfl

theorem acceptCycle_due {order : ChannelOrder} {p : PendingCheck} {s : State} (framed : s.framer.framed = true) :
    (acceptCycle order p s).framer.dueFrame = s.framer.dueFrame := by
  by_cases clash : s.framer.role = .clock ∧ flagSet p.cycle.flags .clockRole = true
  · rw [acceptCycle_of_clash clash.1 clash.2]
    exact (enterDown_due ..).trans (congrArg Framer.dueFrame heard_same.1)
  · rw [acceptCycle_eq framed clash, (handPositions_step ..).framer]
    rfl

theorem decideCycle_due {order : ChannelOrder} {s : State} (framed : s.framer.framed = true) :
    (decideCycle order s).framer.dueFrame = s.framer.dueFrame := by
  cases pending : s.framer.pendingCheck with
  | none => rw [decideCycle_of_none pending]
  | some p =>
    by_cases accepts : p.check = s.framer.receiving.checkField ∨ s.framer.checkBlind = true
    · rw [decideCycle_of_accepted pending accepts, acceptCycle_due framed]
    · have differs : p.check ≠ s.framer.receiving.checkField := fun same => accepts (.inl same)
      rw [decideCycle_of_rejected pending differs (Bool.eq_false_iff.2 fun blind => accepts (.inr blind)),
        rejectCycle_due]

/-! ## The last frame of a received cycle (R11, R12) -/

/-- The decision, then the cycle's own check pending (R12). -/
def cycleEnded (order : ChannelOrder) (check : Word) (cycle : ReceivedCycle) (s : State) : State :=
  { decideCycle order s with framer :=
    if (decideCycle order s).framer.framed = true then { (decideCycle order s).framer with
      dueFrame := 0, firstCycle := false, pendingCheck := some ⟨check, cycle, (decideCycle order s).framer.cycle⟩ }
    else { (decideCycle order s).framer with dueFrame := 0 } }

theorem cycleEnded_of_none {order : ChannelOrder} {check : Word} {cycle : ReceivedCycle} {s : State}
    (none : s.framer.pendingCheck = none) (framed : s.framer.framed = true) : cycleEnded order check cycle s =
      { s with framer := { s.framer with
        dueFrame := 0, firstCycle := false, pendingCheck := some ⟨check, cycle, s.framer.cycle⟩ } } := by
  unfold cycleEnded
  rw [decideCycle_of_none none, if_pos framed]

theorem advanceDue_endReceivedCycle {order : ChannelOrder} {s : State} (framed : s.framer.framed = true)
    (last : s.framer.dueFrame = 11) : advanceDue (endReceivedCycle order s) =
      cycleEnded order s.framer.inCheck s.framer.receiving s := by
  have due : (decideCycle order s).framer.dueFrame = 11 := (decideCycle_due framed).trans last
  have wraps : nextFrame (decideCycle order s).framer.dueFrame = 0 := by rw [due]; rfl
  unfold endReceivedCycle cycleEnded advanceDue
  dsimp only
  split
  · dsimp only
    rw [wraps]
  · rw [wraps]

theorem adoptProvisionally_of_late {service : Byte} {s : State} (late : s.framer.dueFrame ≠ 5) :
    adoptProvisionally service s = s := by
  refine if_neg fun h => late ?_
  simp only [Bool.and_eq_true, beq_iff_eq] at h
  exact Fin.ext h.2

theorem adoptProvisionally_of_aligning {service : Byte} {s : State} (aligning : s.link.state = .aligning) :
    adoptProvisionally service s = { s with framer := { s.framer with
      cycle := if s.framer.role = .follow ∧ s.framer.firstCycle = true ∧ s.framer.dueFrame = 5 then service
        else s.framer.cycle } } := by
  have five : (s.framer.dueFrame.val = 5) ↔ s.framer.dueFrame = 5 := ⟨fun h => Fin.ext h, fun h => congrArg Fin.val h⟩
  have adopts : (s.framer.role == .follow && s.link.state == .aligning && s.framer.firstCycle
      && s.framer.dueFrame.val == 5) = true ↔
      s.framer.role = .follow ∧ s.framer.firstCycle = true ∧ s.framer.dueFrame = 5 := by
    simp [aligning, five, and_assoc]
  unfold adoptProvisionally
  split
  · rw [if_pos (adopts.1 ‹_›)]
  · rw [if_neg (mt adopts.2 ‹_›)]

theorem readFrame_of_aligning {order : ChannelOrder} {payload : Payload} {service : Byte} {s : State}
    (early : s.framer.dueFrame ≠ 11) (aligning : s.link.state = .aligning) : readFrame order payload service s =
      advanceDue { gatherFrame payload service s with framer := { (gatherFrame payload service s).framer with
        cycle := if s.framer.role = .follow ∧ s.framer.firstCycle = true ∧ s.framer.dueFrame = 5 then service
          else s.framer.cycle } } := by
  have kept : handOver order payload (gatherFrame payload service s) = gatherFrame payload service s :=
    handOver_of_aligning aligning
  rw [readFrame_of_early early, kept]
  exact congrArg advanceDue (adoptProvisionally_of_aligning (s := gatherFrame payload service s) aligning)

/-- The payload handed over as the link state has it (R3, R5, R138). -/
def frameTaken (order : ChannelOrder) (payload : Payload) (s : State) : State :=
  if s.link.state = .aligning then s
  else if s.link.state = .up ∧ s.exchange.mismatch = false then
    (channelOrder order).foldl (deliverChannel payload) (frameHanded payload s)
  else frameHanded payload s

theorem handOver_eq {order : ChannelOrder} {payload : Payload} {s : State}
    (state : s.link.state = .aligning ∨ s.link.state = .synced ∨ s.link.state = .up ∨ s.link.state = .leaving) :
    handOver order payload s = frameTaken order payload s := by
  unfold frameTaken
  rcases state with aligning | counted
  · rw [if_pos aligning, handOver_of_aligning aligning]
  · have traffic : s.link.state ≠ .aligning := by rcases counted with h | h | h <;> rw [h] <;> decide
    rw [if_neg traffic]
    by_cases opens : s.link.state = .up ∧ s.exchange.mismatch = false
    · rw [if_pos opens, handOver_of_up opens.1 opens.2]
    · rw [if_neg opens, handOver_of_closed counted ((not_and_or.1 opens).imp_right fun h => by simpa using h)]

/-- What handing over leaves of the framer. -/
theorem frameTaken_framer (order : ChannelOrder) (payload : Payload) (s : State) :
    (frameTaken order payload s).framer = { s.framer with
      lastHanded := (frameTaken order payload s).framer.lastHanded } := by
  unfold frameTaken
  split
  · rfl
  · split
    · rw [(deliverChannels_step ..).framer]
      rfl
    · rfl

theorem readFrame_of_eleven {order : ChannelOrder} {payload : Payload} {service : Byte} {s : State}
    (last : s.framer.dueFrame = 11) (framed : s.framer.framed = true)
    (state : s.link.state = .aligning ∨ s.link.state = .synced ∨ s.link.state = .up ∨ s.link.state = .leaving) :
    readFrame order payload service s = cycleEnded order (gatherFrame payload service s).framer.inCheck
      (gatherFrame payload service s).framer.receiving (frameTaken order payload (gatherFrame payload service s)) := by
  have framer := frameTaken_framer order payload (gatherFrame payload service s)
  have handed : handOver order payload (gatherFrame payload service s) =
    frameTaken order payload (gatherFrame payload service s) := handOver_eq state
  have due : (frameTaken order payload (gatherFrame payload service s)).framer.dueFrame = 11 := by
    rw [framer]
    exact last
  rw [readFrame_of_last last, handed, adoptProvisionally_of_late (by rw [due]; decide),
    advanceDue_endReceivedCycle (by rw [framer]; exact framed) due]
  rw [framer]

/-! ## The outbound frame that begins first (R4; log entry 9) -/

/-- Once begun, no outbound frame begins with the place. -/
theorem exec_receivedFrame_of_begins {marker service : Byte} {payload : Payload} {order : ChannelOrder} {s : State}
    (framed : s.framer.framed = true) (follow : s.framer.role = .follow) (sent : framesSent s = true)
    (due : s.framer.outFrame + 1 = s.framer.dueFrame) : exec (.receivedFrame marker payload service order) s =
      exec (.receivedFrame marker payload service order) (startFrame order s) := by
  have may : frameMayStart s = true := (frameMayStart_iff s).2 (.inr ⟨sent, due.symm⟩)
  have caught : catchUp order s = startFrame order s := if_pos (by rw [follow, may]; rfl)
  have begun : exec (.receivedFrame marker payload service order) s = .next (if (startFrame order s).framer.framed then
      receivePlace order marker payload service (startFrame order s) else startFrame order s) := by
    refine congrArg Host.Outcome.next ((if_pos framed).trans ?_)
    rw [caught]
  rw [begun]
  cases left : (startFrame order s).framer.framed with
  | false =>
    rw [exec_receivedFrame_of_unframed left]
    rfl
  | true =>
    have numbers := startFrame_numbers order s
    obtain ⟨-, out, dueKept, -⟩ := frameNumbered_numbers order s
    simp only [Framer.numbers, Prod.mk.injEq] at numbers
    obtain ⟨-, outFrame, dueFrame, -⟩ := numbers
    rw [exec_receivedFrame_of_framed left (.inr (.inr ?_))]
    · rfl
    · rw [outFrame, dueFrame, out, dueKept, ← due]
      have apart : ∀ f : FrameNo, f + 1 + 1 ≠ f + 1 := by decide
      exact apart _

/-- Settles O51: the place by its marker and by the link state, the last frame of a cycle by its decision. -/
theorem receivedFrameReads : Obligations.ReceivedFrameReads := by
  intro marker service payload order s f good opened gathered receiving inCheck framer u read
  have notLast (early : f.val < 11) : (markerJudged marker s).framer.dueFrame ≠ 11 := fun last =>
    absurd (congrArg Fin.val last) (Nat.ne_of_lt early)
  refine ⟨exec_receivedFrame_of_unframed, fun framed follow sent due => ?begins, fun framed alone state kept => ?open_,
    fun framed alone kept state => ?taken⟩
  case begins =>
    have may : frameMayStart s = true := (frameMayStart_iff s).2 (.inr ⟨sent, due.symm⟩)
    have numbers := startFrame_numbers order s
    obtain ⟨-, out, dueKept, -⟩ := frameNumbered_numbers order s
    simp only [Framer.numbers, Prod.mk.injEq] at numbers
    obtain ⟨-, outFrame, dueFrame, -⟩ := numbers
    exact ⟨startFrame order s, exec_outboundFrameStart_of_may may, outFrame.trans (out.trans due),
      fun _ => dueFrame.trans dueKept, exec_receivedFrame_of_begins framed follow sent due⟩
  case open_ =>
    have other : s.link.state ≠ .resync := by rcases state with h | h | h <;> rw [h] <;> decide
    have traffic : s.link.state ≠ .aligning := by rcases state with h | h | h <;> rw [h] <;> decide
    have reads : read = .next (readFrame order payload service (markerJudged marker s)) :=
      (exec_receivedFrame_of_framed framed alone).trans (congrArg _ (receivePlace_of_read other kept))
    refine ⟨fun early closed => ?_, fun early up calm => ?_, fun last none closed => ?_⟩
    · exact reads.trans (congrArg _ (readFrame_of_closed (s := markerJudged marker s) (notLast early) state closed))
    · have step := deliverChannels_step order payload u
      refine reads.trans (congrArg _ ((readFrame_of_open (s := markerJudged marker s) (notLast early) up calm).trans ?_))
      exact congrArg (fun x : Framer => ({ (channelOrder order).foldl (deliverChannel payload) u with
        framer := { x with dueFrame := nextFrame x.dueFrame } } : State)) step.framer
    · have handed : frameTaken order payload (gatherFrame payload service (markerJudged marker s)) = u :=
        (if_neg traffic).trans (if_neg fun h => closed h.1)
      have ended := readFrame_of_eleven (order := order) (payload := payload) (service := service)
        (s := markerJudged marker s) last framed (.inr state)
      rw [handed] at ended
      exact reads.trans (congrArg _ (ended.trans (cycleEnded_of_none (s := u) none framed)))
  case taken =>
    have other : s.link.state ≠ .resync := by rcases state with h | h | h | h <;> rw [h] <;> decide
    have reads : read = .next (readFrame order payload service (markerJudged marker s)) :=
      (exec_receivedFrame_of_framed framed alone).trans (congrArg _ (receivePlace_of_read other kept))
    intro held taken
    refine ⟨fun early aligning => reads.trans (congrArg _ (readFrame_of_aligning (s := markerJudged marker s)
      (notLast early) aligning)), fun last => reads.trans (congrArg _ ?_)⟩
    exact readFrame_of_eleven (s := markerJudged marker s) last framed state

end Sys2Proof.Machine
end

section
/-! SUPPORT. The service byte of an outbound frame (R7, R8, R10, R14, R37, R46, R178, R179). They settle O49. -/

namespace Sys2Proof.Machine

open Sys2Proof

/-! ## The position boundary and the framer (R47, R87) -/

theorem agreeEntered_setFramer {s : State} {x : Framer} (cycle : x.cycle = s.framer.cycle) :
    agreeEntered { s with framer := x } = { agreeEntered s with framer := x } := by
  rw [agreeEntered_eq, agreeEntered_eq, ← cycle]

theorem moveAnswer_setFramer {s : State} {x : Framer} (cycle : x.cycle = s.framer.cycle) (a : Answer) :
    moveAnswer { s with framer := x } a = { moveAnswer s a with framer := x } := by
  unfold moveAnswer
  dsimp only
  cases a.source with
  | plan =>
    dsimp only
    have entered := agreeEntered_setFramer (s := { s with service := { s.service with answer := none } }) cycle
    split
    · rw [entered]
      simp only [placeInSlot, agreeTarget, cycle]
    · rfl
  | badChecksEcho =>
    dsimp only
    rw [beginBadStart_eq, beginBadStart_eq]
    rfl
  | other => rfl

theorem chooseMessage_setFramer {s : State} {x : Framer} (cycle : x.cycle = s.framer.cycle) :
    chooseMessage { s with framer := x } = { chooseMessage s with framer := x } := by
  unfold chooseMessage
  dsimp only
  split
  · rfl
  · cases s.service.answer with
    | some a => exact moveAnswer_setFramer cycle a
    | none =>
      cases s.service.origin with
      | nil => rfl
      | cons e rest =>
        unfold moveOrigin
        dsimp only
        split <;> rfl

/-- The boundary reads of the framer its cycle number alone. -/
theorem positionBoundary_setFramer {s : State} {x : Framer} (cycle : x.cycle = s.framer.cycle) :
    positionBoundary { s with framer := x } = { positionBoundary s with framer := x } := by
  rw [positionBoundary_eq, positionBoundary_eq, chooseMessage_setFramer cycle]
  rfl

/-! ## What the service byte's part leaves of the service channel and the exchange -/

theorem statusSent_frame (s : State) : statusSent s = { s with
    framer := (statusSent s).framer, link := (statusSent s).link } := by
  unfold statusSent
  dsimp only
  split_ifs <;> rfl

theorem beginService_of_boundary {f : FrameNo} {s : State} (sent : framesSent s = true) (boundary : f = 0 ∨ f = 6) :
    (beginService f s).service = (positionBoundary s).service ∧
    (beginService f s).exchange = (positionBoundary s).exchange := by
  rcases boundary with rfl | rfl
  · rw [beginService_zero_of_sent sent]
    have checked : positionBoundary (beginOutCheck s) = { positionBoundary s with
      framer := (beginOutCheck s).framer } := positionBoundary_setFramer (x := (beginOutCheck s).framer) rfl
    unfold positionBegun
    rw [checked]
    exact ⟨rfl, rfl⟩
  · rw [beginService_six, beginPosition_of_sent sent]
    exact ⟨rfl, rfl⟩

theorem beginService_of_kept {f : FrameNo} {s : State} (kept : framesSent s = false ∨ (f ≠ 0 ∧ f ≠ 6)) :
    (beginService f s).service = s.service ∧ (beginService f s).exchange = s.exchange := by
  have unsent (h : f = 0 ∨ f = 6) : framesSent s = false := kept.resolve_right fun apart => h.elim apart.1 apart.2
  by_cases zero : f = 0
  · rw [zero, beginService_zero_of_unsent (unsent (.inl zero))]
    exact ⟨rfl, rfl⟩
  · by_cases six : f = 6
    · rw [six, beginService_six, beginPosition_of_unsent (unsent (.inr six))]
      exact ⟨rfl, rfl⟩
    · by_cases four : f = 4
      · rw [four, beginService_four]
        exact ⟨rfl, rfl⟩
      · by_cases five : f = 5
        · rw [five, beginService_five]
          split
          · rw [statusSent_frame]
            exact ⟨rfl, rfl⟩
          · exact ⟨rfl, rfl⟩
        · by_cases ten : f = 10
          · rw [ten, beginService_ten]
            exact ⟨rfl, rfl⟩
          · rw [beginService_of_plain ⟨zero, four, five, six, ten⟩]
            exact ⟨rfl, rfl⟩

/-- The frame that begins leaves the service channel and the exchange as its service byte's part does. -/
theorem beginFrame_kept (order : ChannelOrder) (f : FrameNo) (s : State) :
    (beginFrame order f s).service = (beginService f s).service ∧
    (beginFrame order f s).exchange = (beginService f s).exchange := by
  have units := frameUnits_step order f s
  have settled := frameSettled_step f s
  have kept : (frameUnits order f s).2.service = (beginService f s).service ∧
      (frameUnits order f s).2.exchange = (beginService f s).exchange :=
    ⟨units.service.trans settled.service, units.exchange.trans settled.exchange⟩
  cases sent : framesSent (beginService f s) with
  | true =>
    rw [beginFrame_of_sent sent]
    exact kept
  | false =>
    rw [beginFrame_of_unsent sent]
    exact kept

/-! ## The bytes that are sent (R7, R178, R179) -/

theorem message_firstByte (target : BitVec 4) (kind : MessageKind) : (target ++ 0#4) ||| kindField kind =
    byteOf (16 * target.toNat + if kind = .value then 1 else 0) := by
  revert target
  cases kind <;> decide

theorem Message.bytes_eq (m : Message) : m.bytes = [byteOf (16 * m.target.toNat + if m.kind = .value then 1 else 0),
    m.code, lowByte m.argument, highByte m.argument] := by
  rw [Message.bytes, message_firstByte]

theorem flagSet_composed (ready demand leaving farError bank looping clockRole : Bool) :
    let flags := composeFlagsByte ready demand leaving farError bank looping clockRole
    flagSet flags .ready = ready ∧ flagSet flags .demand = demand ∧ flagSet flags .leaving = leaving ∧
    flagSet flags .farError = farError ∧ flagSet flags .bank = bank ∧ flagSet flags .looping = looping ∧
    flagSet flags .clockRole = clockRole ∧ flags.msb = false := by
  revert ready demand leaving farError bank looping clockRole
  decide

theorem getElem?_of_getD {l : List Byte} {i : Nat} (inside : i < l.length) {b : Byte} (get : b = l.getD i 0#8) :
    l[i]? = some b := by
  rw [get, List.getElem?_eq_getElem inside, List.getD_eq_getElem?_getD, List.getElem?_eq_getElem inside]
  rfl

/-! ## What the service byte's part may change -/

/-- The framer's items of an outbound frame, and the count of LEAVING sent, with the service channel and the exchange. -/
structure ServiceBegun (s t : State) : Prop where
  frame : t = { s with framer := t.framer, link := t.link, service := t.service, exchange := t.exchange }
  framer : t.framer = { s.framer with
    positionMessage := t.framer.positionMessage, statusFlags := t.framer.statusFlags
    statusCycle := t.framer.statusCycle, checkField := t.framer.checkField, outCheck := t.framer.outCheck
    lastCheck := t.framer.lastCheck, farErrorToSend := t.framer.farErrorToSend }
  link : t.link = { s.link with leavingCount := t.link.leavingCount }

theorem ServiceBegun.refl (s : State) : ServiceBegun s s := ⟨rfl, rfl, rfl⟩

theorem ServiceBegun.beginPosition (s : State) : ServiceBegun s (beginPosition s) := by
  cases sent : framesSent s with
  | true =>
    rw [beginPosition_of_sent sent]
    exact ⟨rfl, rfl, rfl⟩
  | false =>
    rw [beginPosition_of_unsent sent]
    exact ⟨rfl, rfl, rfl⟩

theorem serviceBegun (f : FrameNo) (s : State) : ServiceBegun s (beginService f s) := by
  unfold beginService
  split_ifs
  · obtain ⟨frame, framer, link⟩ := ServiceBegun.beginPosition (beginOutCheck s)
    exact ⟨by rw [frame]; rfl, by rw [framer]; rfl, by rw [link]; rfl⟩
  · exact .beginPosition s
  · exact ⟨rfl, rfl, rfl⟩
  · unfold statusSent
    dsimp only
    split_ifs <;> exact ⟨rfl, rfl, rfl⟩
  · exact .refl s
  · exact .beginPosition s
  · exact ⟨rfl, rfl, rfl⟩
  · exact .refl s

theorem framesSent_beginService (f : FrameNo) (s : State) : framesSent (beginService f s) = framesSent s := by
  obtain ⟨-, framer, link⟩ := serviceBegun f s
  refine framesSent_congr ?_ ?_ ?_
  · rw [link]
  · rw [framer]
  · rw [framer]

theorem framesSent_beginFrame (order : ChannelOrder) (f : FrameNo) (s : State) :
    framesSent (beginFrame order f s) = framesSent s := by
  have service := framesSent_beginService f s
  refine Eq.trans ?_ service
  cases sent : framesSent (beginService f s) with
  | true =>
    refine (framesSent_congr ?_ ?_ ?_).trans sent
    · rw [beginFrame_link]
    · rw [beginFrame_framer_of_sent sent]
    · rw [beginFrame_framer_of_sent sent]
  | false => rw [beginFrame_of_unsent sent, framesSent_frameUnits, sent]

/-- Where a frame is sent, it has begun with the step. -/
theorem startFrame_of_sent {order : ChannelOrder} {s : State} (sent : framesSent (startFrame order s) = true) :
    framesSent (frameNumbered order s) = true ∧
      startFrame order s = beginFrame order (s.framer.outFrame + 1) (frameNumbered order s) := by
  rw [startFrame_eq] at sent ⊢
  split at sent
  · rename_i begins
    rw [if_pos begins]
    exact ⟨(framesSent_beginFrame ..).symm.trans sent, rfl⟩
  · rename_i rests
    exact absurd (.inr sent) rests

/-! ## The check at a cycle start (R10, R20) -/

/-- The link rests, or the outbound checks are as they were. -/
def ChecksKept (s t : State) : Prop := framesSent t = false ∨
  (t.framer.outCheck = s.framer.outCheck ∧ t.framer.lastCheck = s.framer.lastCheck)

theorem framesSent_of_resting {s : State} (rest : s.link.state.resting = true) : framesSent s = false := by
  unfold framesSent
  rcases (LinkState.resting_iff _).1 rest with h | h | h <;> rw [h]

theorem enterDown_unsent (order : ChannelOrder) (s : State) : framesSent (enterDown order s) = false := by
  refine framesSent_of_resting ?_
  rw [enterDown_link]
  unfold Link.downOrAnswering
  split <;> rfl

theorem enterDown_told_unsent (order : ChannelOrder) (s : State) :
    framesSent ((enterDown order s).raiseAll .link) = false := by
  generalize sent : enterDown order s = t
  have unsent := enterDown_unsent order s
  rw [sent] at unsent
  exact unsent

theorem ChecksKept.whenDue {due : State → Bool} {act : State → State} {s t : State} (h : ChecksKept s t)
    (k : framesSent (act t) = false ∨ (framesSent (act t) = framesSent t ∧
      (act t).framer.outCheck = t.framer.outCheck ∧ (act t).framer.lastCheck = t.framer.lastCheck)) :
    ChecksKept s (whenDue due act t) := by
  unfold Machine.whenDue
  split
  · rcases k with rests | ⟨sent, out, last⟩
    · exact .inl rests
    · exact h.imp sent.trans fun ⟨outKept, lastKept⟩ => ⟨out.trans outKept, last.trans lastKept⟩
  · exact h

theorem checksKept_of_same {s t : State} (link : SameLink s t) (framer : t.framer = s.framer) :
    framesSent t = framesSent s ∧ t.framer.outCheck = s.framer.outCheck ∧ t.framer.lastCheck = s.framer.lastCheck := by
  refine ⟨framesSent_congr ?_ ?_ ?_, ?_, ?_⟩
  · rw [link.link]
  all_goals rw [framer]

theorem runDue_checks (order : ChannelOrder) (s : State) : ChecksKept s (runDue order s) := by
  unfold runDue
  refine ChecksKept.whenDue ?_ (.inr (checksKept_of_same (SameLink.bankAdoptionOp ..) (bankAdoptionOp_framer ..)))
  refine ChecksKept.whenDue ?_ (.inr (checksKept_of_same (SameLink.planSwapOp ..) (planSwapOp_framer ..)))
  refine ChecksKept.whenDue ?_ (.inr (checksKept_of_same (SameLink.planTimeoutOp _) (planTimeoutOp_framer _)))
  refine ChecksKept.whenDue ?_ (.inr ⟨rfl, rfl, rfl⟩)
  refine ChecksKept.whenDue ?_ (.inl (enterDown_told_unsent order _))
  refine ChecksKept.whenDue (.inr ⟨rfl, rfl⟩) (.inl ?_)
  rw [failTry_of_reason]
  exact enterDown_told_unsent ..

/-! ## The step, to the state that its frame begins from -/

theorem framesSent_frameNumbered (order : ChannelOrder) (s : State) :
    framesSent (frameNumbered order s) = framesSent (frameEntered order s) := framesSent_congr rfl rfl rfl

theorem positionBoundary_frameNumbered (order : ChannelOrder) (s : State) :
    (positionBoundary (frameNumbered order s)).service = (positionBoundary (frameEntered order s)).service ∧
    (positionBoundary (frameNumbered order s)).exchange = (positionBoundary (frameEntered order s)).exchange := by
  have numbered : positionBoundary (frameNumbered order s) = { positionBoundary (frameEntered order s) with
    framer := (frameNumbered order s).framer } :=
      positionBoundary_setFramer (x := (frameNumbered order s).framer) rfl
  rw [numbered]
  exact ⟨rfl, rfl⟩

theorem frameEntered_of_later {order : ChannelOrder} {s : State} (later : s.framer.outFrame + 1 ≠ 0) :
    frameEntered order s = s := if_neg later

theorem startFrame_at_boundary {order : ChannelOrder} {s : State} (sent : framesSent (frameEntered order s) = true)
    (boundary : s.framer.outFrame + 1 = 0 ∨ s.framer.outFrame + 1 = 6) :
    (startFrame order s).service = (positionBoundary (frameEntered order s)).service ∧
    (startFrame order s).exchange = (positionBoundary (frameEntered order s)).exchange := by
  have numbered : framesSent (frameNumbered order s) = true := (framesSent_frameNumbered ..).trans sent
  obtain ⟨service, exchange⟩ := beginFrame_kept order (s.framer.outFrame + 1) (frameNumbered order s)
  obtain ⟨serviceAt, exchangeAt⟩ := beginService_of_boundary numbered boundary
  obtain ⟨serviceOf, exchangeOf⟩ := positionBoundary_frameNumbered order s
  rw [startFrame_eq, if_pos (.inr numbered)]
  exact ⟨service.trans (serviceAt.trans serviceOf), exchange.trans (exchangeAt.trans exchangeOf)⟩

theorem startFrame_between {order : ChannelOrder} {s : State} (kept : framesSent (frameEntered order s) = false ∨
    (s.framer.outFrame + 1 ≠ 0 ∧ s.framer.outFrame + 1 ≠ 6)) :
    (startFrame order s).service = (frameEntered order s).service ∧
    (startFrame order s).exchange = (frameEntered order s).exchange := by
  obtain ⟨service, exchange⟩ := beginFrame_kept order (s.framer.outFrame + 1) (frameNumbered order s)
  obtain ⟨serviceAt, exchangeAt⟩ := beginService_of_kept (s := frameNumbered order s)
    (kept.imp (framesSent_frameNumbered ..).trans id)
  rw [startFrame_eq]
  split
  · exact ⟨service.trans serviceAt, exchange.trans exchangeAt⟩
  · exact ⟨rfl, rfl⟩

/-- The outbound checks that a frame sent begins from are those that the step found (R10). -/
theorem frameNumbered_checks {order : ChannelOrder} {s : State} (sent : framesSent (frameNumbered order s) = true) :
    (frameNumbered order s).framer.outCheck = s.framer.outCheck ∧
    (frameNumbered order s).framer.lastCheck = s.framer.lastCheck := by
  have outCheck : (frameNumbered order s).framer.outCheck = (frameEntered order s).framer.outCheck := rfl
  have lastCheck : (frameNumbered order s).framer.lastCheck = (frameEntered order s).framer.lastCheck := rfl
  by_cases first : s.framer.outFrame + 1 = 0
  · have entered : frameEntered order s = runDue order (openCycle s) := if_pos first
    have opened : (openCycle s).framer.outCheck = s.framer.outCheck ∧
        (openCycle s).framer.lastCheck = s.framer.lastCheck := by
      rw [openCycle_eq, cycleOpened]
      split <;> exact ⟨rfl, rfl⟩
    rw [framesSent_frameNumbered, entered] at sent
    obtain ⟨out, last⟩ := (runDue_checks order (openCycle s)).resolve_left (by simp [sent])
    rw [outCheck, lastCheck, entered, out, last]
    exact opened
  · rw [outCheck, lastCheck, frameEntered_of_later first]
    exact ⟨rfl, rfl⟩

/-! ## Each frame's service byte -/

theorem beginFrame_plan (order : ChannelOrder) (f : FrameNo) (s : State) : (beginFrame order f s).plan = s.plan := by
  have settled : (frameUnits order f s).2.plan = s.plan := by
    rw [(frameUnits_step order f s).plan, (frameSettled_step f s).plan, (serviceBegun f s).frame]
  cases sent : framesSent (beginService f s) with
  | true => exact (congrArg State.plan (beginFrame_of_sent sent)).trans settled
  | false => exact (congrArg State.plan (beginFrame_of_unsent sent)).trans settled

section Bytes
variable {f : FrameNo} {s : State}

theorem serviceByte_first (first : f.val < 4) (x : Framer) :
    x.positionMessage.bytes[f.val]? = some (x.serviceByte f) :=
  getElem?_of_getD first (if_pos first)

theorem serviceByte_second (low : 6 ≤ f.val) (high : f.val < 10) (x : Framer) :
    x.positionMessage.bytes[f.val - 6]? = some (x.serviceByte f) := by
  refine getElem?_of_getD (show f.val - 6 < 4 by omega) ?_
  exact (if_neg (by omega)).trans ((if_neg (by omega)).trans ((if_neg (by omega)).trans (if_pos high)))

/-- At a boundary the position carries the slot; in the other frames it goes on with its message (R7, R46). -/
theorem beginService_slot (boundary : f = 0 ∨ f = 6) :
    (beginService f s).framer.positionMessage = (beginService f s).service.slot := by
  have placed (u : State) : (beginPosition u).framer.positionMessage = (beginPosition u).service.slot := rfl
  rcases boundary with rfl | rfl
  · exact placed _
  · exact placed s

theorem statusSent_position (s : State) : (statusSent s).framer.positionMessage = s.framer.positionMessage := by
  unfold statusSent
  dsimp only
  split_ifs <;> rfl

theorem beginService_position (zero : f ≠ 0) (six : f ≠ 6) :
    (beginService f s).framer.positionMessage = s.framer.positionMessage := by
  by_cases four : f = 4
  · rw [four, beginService_four]
    rfl
  · by_cases five : f = 5
    · rw [five, beginService_five]
      split
      · exact statusSent_position s
      · rfl
    · by_cases ten : f = 10
      · rw [ten, beginService_ten]
        rfl
      · rw [beginService_of_plain ⟨zero, four, five, six, ten⟩]

/-- The status field as its second byte goes out (R14, R37; log entry 10). -/
theorem statusSent_spec (s : State) : (statusSent s).framer.statusCycle = s.framer.statusCycle ∧
    (statusSent s).framer.farErrorToSend = (s.framer.farErrorToSend && !flagSet s.framer.statusFlags .farError) ∧
    (statusSent s).link.leavingCount = if flagSet s.framer.statusFlags .leaving = true then
      s.link.leavingCount.map (fun n => min 4 (n + 1)) else s.link.leavingCount := by
  by_cases far : flagSet s.framer.statusFlags .farError = true <;>
    by_cases leaving : flagSet s.framer.statusFlags .leaving = true <;>
    simp [statusSent, far, leaving]

/-- The status field as it is composed (R8). -/
theorem composeStatus_spec (s : State) :
    let t := composeStatus s
    flagSet t.framer.statusFlags .ready = (t.link.state == .synced || t.link.state == .up ||
      t.link.state == .resync || t.link.state == .leaving) ∧
    flagSet t.framer.statusFlags .demand = (t.link.claims.p1 || t.link.claims.p2 || t.link.claims.p3) ∧
    flagSet t.framer.statusFlags .leaving = (t.link.state == .leaving) ∧
    flagSet t.framer.statusFlags .farError = t.framer.farErrorToSend ∧
    flagSet t.framer.statusFlags .bank = (t.plan.active == .b1) ∧
    (flagSet t.framer.statusFlags .looping = true ↔ ∃ i : SlotNo, t.service.loopSet[i.val] = true) ∧
    flagSet t.framer.statusFlags .clockRole = (t.framer.role == .clock) ∧ t.framer.statusFlags.msb = false := by
  intro t
  obtain ⟨ready, demand, leaving, farError, bank, looping, clockRole, reserved⟩ := flagSet_composed
    s.link.state.sendsReady s.link.demands (s.link.state == .leaving) s.framer.farErrorToSend (s.plan.active == .b1)
    s.service.looping (s.framer.role == .clock)
  refine ⟨ready.trans ?_, demand, leaving, farError, bank, ?_, clockRole, reserved⟩
  · cases state : s.link.state <;> simp [t, composeStatus, state, LinkState.sendsReady]
  · refine (Bool.eq_iff_iff.1 looping).trans ?_
    simp [Service.looping, t, composeStatus]

end Bytes

theorem startFrame_outFrame (order : ChannelOrder) (s : State) :
    (startFrame order s).framer.outFrame = s.framer.outFrame + 1 :=
  congrArg (fun n => n.2.1) (startFrame_numbers order s)

/-- A frame that is sent carries the service byte of the state that its own part of the step has settled. -/
theorem startFrame_carries {order : ChannelOrder} {s : State} {marker service : Byte} {payload : Payload}
    (sent : framesSent (startFrame order s) = true)
    (line : (startFrame order s).framer.line = .frame marker payload service) :
    let begun := beginService (s.framer.outFrame + 1) (frameNumbered order s)
    let t := startFrame order s
    service = begun.framer.serviceByte (s.framer.outFrame + 1) ∧
    t.framer = { begun.framer with line := t.framer.line, outCheck := t.framer.outCheck } ∧
    t.link = begun.link ∧ t.plan = begun.plan ∧ t.service = begun.service := by
  intro begun t
  obtain ⟨numbered, step⟩ := startFrame_of_sent sent
  have goes : framesSent begun = true := (framesSent_beginService ..).trans numbered
  have framer : t.framer = _ := (congrArg State.framer step).trans (beginFrame_framer_of_sent goes)
  have plan : begun.plan = (frameNumbered order s).plan :=
    (congrArg State.plan (serviceBegun (s.framer.outFrame + 1) (frameNumbered order s)).frame :)
  refine ⟨?_, ?_, (congrArg State.link step).trans (beginFrame_link ..),
    (congrArg State.plan step).trans ((beginFrame_plan ..).trans plan.symm),
    (congrArg State.service step).trans (beginFrame_kept ..).1⟩
  · have carried := line.symm.trans (congrArg Framer.line framer)
    exact (Line.frame.inj carried).2.2
  · rw [framer]

/-- Settles O49: the boundary by the states it begins from, each service byte by its frame. -/
theorem serviceByteCarries : Obligations.ServiceByteCarries := by
  intro order s may next w
  have begins : exec (.outboundFrameStart order) s = .next (startFrame order s) :=
    exec_outboundFrameStart_of_may ((frameMayStart_iff s).2 may)
  refine ⟨startFrame order s, begins, startFrame_at_boundary, startFrame_between, ?_⟩
  intro marker service payload sent line f m bytes
  have numbered := (startFrame_of_sent sent).1
  obtain ⟨carried, framer, link, plan, kept⟩ := startFrame_carries sent line
  have number : f = next := startFrame_outFrame order s
  have position : m = (beginService next (frameNumbered order s)).framer.positionMessage :=
    (congrArg Framer.positionMessage framer :)
  have later (apart : next ≠ 0) : (frameNumbered order s).framer = { s.framer with
      outFrame := next, cycleOpen := (frameNumbered order s).framer.cycleOpen } := by
    have entered : (frameEntered order s).framer = s.framer := congrArg State.framer (frameEntered_of_later apart)
    exact congrArg (fun x : Framer => { x with
      outFrame := next, cycleOpen := (frameNumbered order s).framer.cycleOpen }) entered
  have written : bytes = m.bytes := (Message.bytes_eq m).symm
  clear_value f m bytes
  subst number written
  refine ⟨?slot, ?between, ?first, ?second, ?four, ?five, ?ten, ?eleven, ?zero⟩
  case slot =>
    intro boundary
    rw [position, kept]
    exact beginService_slot boundary
  case between =>
    intro zero six
    rw [position, beginService_position zero six, later zero]
  case first =>
    intro low
    rw [position, carried]
    exact serviceByte_first low _
  case second =>
    intro low high
    rw [position, carried]
    exact serviceByte_second low high _
  case four =>
    intro four
    have composed : beginService next (frameNumbered order s) = composeStatus (frameNumbered order s) := by
      rw [four, beginService_four]
    have spec := composeStatus_spec (frameNumbered order s)
    have flags : service = (composeStatus (frameNumbered order s)).framer.statusFlags := by
      rw [carried, ← composed]
      exact congrArg (Framer.serviceByte _) four
    rw [composed] at framer link plan kept
    rw [flags, framer, link, plan, kept]
    obtain ⟨ready, demand, leaving, farError, bank, looping, clockRole, reserved⟩ := spec
    exact ⟨ready, demand, leaving, farError, bank, looping, clockRole, reserved, rfl, rfl⟩
  case five =>
    intro five
    have apart : next ≠ 0 := by rw [five]; decide
    have composed : beginService next (frameNumbered order s) = statusSent (frameNumbered order s) := by
      rw [five, beginService_five, if_pos numbered]
    have number : frameNumbered order s = setOutFrame next s := congrArg (setOutFrame next) (frameEntered_of_later apart)
    obtain ⟨cycle, farError, leaving⟩ := statusSent_spec (frameNumbered order s)
    have sentByte : service = (statusSent (frameNumbered order s)).framer.statusCycle := by
      rw [carried, ← composed]
      exact congrArg (Framer.serviceByte _) five
    rw [composed] at framer link
    rw [sentByte, framer, link]
    refine ⟨cycle.trans ?_, farError.trans ?_, leaving.trans ?_⟩
    all_goals rw [number]; rfl
  case ten =>
    intro ten
    have composed : beginService next (frameNumbered order s) = readCheckField (frameNumbered order s) := by
      rw [ten, beginService_ten]
    have apart : next ≠ 0 := by rw [ten]; decide
    have sentByte : service = lowByte (readCheckField (frameNumbered order s)).framer.checkField := by
      rw [carried, ← composed]
      exact congrArg (Framer.serviceByte _) ten
    rw [composed] at framer
    rw [sentByte, framer]
    refine ⟨?_, rfl⟩
    unfold readCheckField
    dsimp only
    rw [later apart]
  case eleven =>
    intro eleven
    have apart : next ≠ 0 := by rw [eleven]; decide
    have plain : beginService next (frameNumbered order s) = frameNumbered order s := by
      rw [eleven]
      exact beginService_of_plain (by decide) _
    have sentByte : service = highByte (frameNumbered order s).framer.checkField := by
      rw [carried, plain]
      exact congrArg (Framer.serviceByte _) eleven
    rw [sentByte, later apart]
  case zero =>
    intro zero
    have begun : beginService next (frameNumbered order s) = positionBegun (beginOutCheck (frameNumbered order s)) := by
      rw [zero]
      exact beginService_zero_of_sent numbered
    obtain ⟨out, last⟩ := frameNumbered_checks numbered
    rw [begun] at framer
    rw [framer]
    exact congrArg₂ Option.getD out last

end Sys2Proof.Machine
end

section
/-! SUPPORT. The start of an outbound frame (R1, R3, R4, R74, R87, R128, R131). They settle O48. -/

namespace Sys2Proof.Machine

open Sys2Proof

/-! ## What falls due at a cycle start (R34, R37, R61, R85, R93, R97) -/

/-- A count that is at least a positive bound is a count that runs. -/
theorem le_getD_iff {k : Nat} (positive : 0 < k) (x : Option Nat) : k ≤ x.getD 0 ↔ ∃ n, x = some n ∧ k ≤ n := by
  cases x with
  | none => simp; omega
  | some n => simp

theorem whenDue_of_iff {due : State → Bool} {act : State → State} {s : State} {P : Prop} [Decidable P]
    (same : due s = true ↔ P) : whenDue due act s = if P then act s else s := if_congr same rfl rfl

theorem whenDue_readyWait (order : ChannelOrder) (s : State) :
    whenDue readyWaitDue (failTry order (some .readyTimeout)) s =
      if s.link.state = .synced ∧ 50 ≤ s.link.readyWait.getD 0 then readyTimedOut order s else s := by
  have due := (readyWaitDue_iff s).trans (and_congr_right' (le_getD_iff (by decide) s.link.readyWait).symm)
  rw [whenDue_of_iff due, failTry_of_reason]
  rfl

theorem whenDue_leaving (order : ChannelOrder) (s : State) : whenDue leavingDue (leavingDone order) s =
    if s.link.state = .leaving ∧ 4 ≤ s.link.leavingCount.getD 0 then (enterDown order s).raiseAll .link else s :=
  whenDue_of_iff ((leavingDue_iff s).trans (and_congr_right' (le_getD_iff (by decide) s.link.leavingCount).symm))

theorem whenDue_badStart (s : State) : whenDue badStartDue badStartExpires s =
    if 4 ≤ s.service.badStart.getD 0 then badStartExpires s else s :=
  whenDue_of_iff ((badStartDue_iff s).trans (le_getD_iff (by decide) s.service.badStart).symm)

theorem whenDue_timeout (s : State) : whenDue timeoutDue planTimeoutOp s =
    if s.exchange.state = .offered ∧ 48 ≤ s.exchange.count then planTimeoutOp s else s :=
  whenDue_of_iff (timeoutDue_iff s)

theorem whenDue_swap_of_none {order : ChannelOrder} {s : State} (none : s.exchange.target = none) :
    whenDue swapDue (planSwapOp order) s = s :=
  if_neg fun due => by
    obtain ⟨-, target, some, -⟩ := (swapDue_iff s).1 due
    exact Option.some_ne_none target (some.symm.trans none)

theorem whenDue_swap_of_some {order : ChannelOrder} {s : State} {target : Byte}
    (some : s.exchange.target = some target) : whenDue swapDue (planSwapOp order) s =
    if s.exchange.state = .scheduled ∧ (target = s.framer.cycle ∨ 16 < (target - s.framer.cycle).toNat) then
      planSwitched order s else s :=
  whenDue_of_iff ((swapDue_iff s).trans (and_congr_right' (by simp [some])))

theorem whenDue_adoption (order : ChannelOrder) (s : State) : whenDue adoptionDue (bankAdoptionOp order) s =
    if s.framer.role = .follow ∧ s.exchange.adopt ≠ none then bankAdopted order s else s := by
  rw [whenDue_of_iff (adoptionDue_iff s), bankAdoptionOp_eq]

/-! ## The loop pauses of a frame start (R131) -/

/-- The channel with the pause that a frame start gives it. -/
def Channel.paused (x : Channel) (b : Bool) : Channel :=
  if x.direction = some .out then { x with loopPause := b } else x

theorem updateLoopPause_channel (s : State) (c d : ChannelNo) : (updateLoopPause s c).channel d =
    if d = c then (s.channel c).paused (loopTouches s c) else s.channel d := by
  unfold updateLoopPause Channel.paused
  split
  · exact setLoopPause_channel ..
  · split
    · rename_i same
      rw [same]
    · rfl

theorem updateLoopPause_port (s : State) (c : ChannelNo) (p : Port) : (updateLoopPause s c).port p =
    if (s.channel c).owner = some p ∧ ((s.channel c).paused (loopTouches s c)).loopPause ≠ (s.channel c).loopPause
      then (s.port p).raise .looped else s.port p := by
  unfold updateLoopPause Channel.paused
  split
  · rw [setLoopPause_port]
    exact if_congr (and_congr_right' ne_comm) rfl rfl
  · simp

theorem PortState.raise_raise (q : PortState) (e : Event) : (q.raise e).raise e = q.raise e := by
  simp [PortState.raise, BitVec.or_assoc]

theorem PortState.raise_or (q : PortState) (e : Event) (P Q : Prop) [Decidable P] [Decidable Q] :
    (if Q then (if P then q.raise e else q).raise e else if P then q.raise e else q) =
      if P ∨ Q then q.raise e else q := by
  by_cases first : P
  · simp [first, PortState.raise_raise]
  · simp [first]

theorem ChannelStep.updateLoopPause (s : State) (c : ChannelNo) : ChannelStep s (updateLoopPause s c) := by
  unfold Machine.updateLoopPause
  split
  · exact .setLoopPause ..
  · exact .refl s

theorem updateLoopPause_cells (s : State) (c : ChannelNo) : (updateLoopPause s c).cells = s.cells := by
  have raised (u : State) (owner : Option Port) : (u.raiseOwner owner .looped).cells = u.cells := by
    cases owner <;> rfl
  unfold updateLoopPause setLoopPause
  split_ifs
  · rfl
  · exact raised ..
  · rfl

/-- The loop pauses of the channels of a list are set in a state. -/
structure PausesSet (l : List ChannelNo) (s t : State) : Prop where
  step : ChannelStep s t
  cells : t.cells = s.cells
  channel : ∀ d, t.channel d = if d ∈ l then (s.channel d).paused (loopTouches s d) else s.channel d
  port : ∀ p, t.port p = if ∃ c ∈ l, (s.channel c).owner = some p ∧
    ((s.channel c).paused (loopTouches s c)).loopPause ≠ (s.channel c).loopPause
      then (s.port p).raise .looped else s.port p

theorem ChannelStep.loopTouches {s t : State} (h : ChannelStep s t) (c : ChannelNo) :
    loopTouches t c = loopTouches s c := by
  unfold Machine.loopTouches
  rw [h.plan, h.service]

theorem PausesSet.cons {c : ChannelNo} {cs : List ChannelNo} (fresh : c ∉ cs) {s t : State}
    (rest : PausesSet cs (updateLoopPause s c) t) : PausesSet (c :: cs) s t := by
  have first := ChannelStep.updateLoopPause s c
  have other {d : ChannelNo} (inside : d ∈ cs) : (updateLoopPause s c).channel d = s.channel d := by
    have apart : d ≠ c := fun same => fresh (same ▸ inside)
    rw [updateLoopPause_channel, if_neg apart]
  refine ⟨first.trans rest.step, rest.cells.trans (updateLoopPause_cells s c), fun d => ?_, fun p => ?_⟩
  · rw [rest.channel d, first.loopTouches]
    by_cases inside : d ∈ cs
    · rw [if_pos inside, if_pos (List.mem_cons_of_mem c inside), other inside]
    · rw [if_neg inside, updateLoopPause_channel]
      by_cases same : d = c
      · simp [same]
      · simp [same, inside]
  · have later : (∃ d ∈ cs, ((updateLoopPause s c).channel d).owner = some p ∧
        (((updateLoopPause s c).channel d).paused (Machine.loopTouches (updateLoopPause s c) d)).loopPause ≠
          ((updateLoopPause s c).channel d).loopPause) ↔ ∃ d ∈ cs, (s.channel d).owner = some p ∧
        ((s.channel d).paused (Machine.loopTouches s d)).loopPause ≠ (s.channel d).loopPause :=
      exists_congr fun d => and_congr_right fun inside => by rw [other inside, first.loopTouches]
    rw [rest.port p, if_congr later rfl rfl, updateLoopPause_port]
    simp only [List.exists_mem_cons_iff]
    exact PortState.raise_or ..

theorem pausesSet_foldl {l : List ChannelNo} (distinct : l.Nodup) (s : State) :
    PausesSet l s (l.foldl updateLoopPause s) := by
  induction l generalizing s with
  | nil => exact ⟨.refl s, rfl, fun d => by simp, fun p => by simp⟩
  | cons c cs ih =>
    obtain ⟨fresh, distinct⟩ := List.nodup_cons.1 distinct
    exact (ih distinct (updateLoopPause s c)).cons fresh

theorem updateLoopPauses_set (s : State) : PausesSet (List.finRange 8) s (updateLoopPauses s) :=
  pausesSet_foldl (List.nodup_finRange 8) s

section Pauses
variable {s : State} {c : ChannelNo}

theorem updateLoopPauses_channel (s : State) (c : ChannelNo) : (updateLoopPauses s).channel c =
    (s.channel c).paused (loopTouches s c) :=
  ((updateLoopPauses_set s).channel c).trans (if_pos (List.mem_finRange c))

theorem updateLoopPauses_channel_of_out (out : (s.channel c).direction = some .out) :
    (updateLoopPauses s).channel c = { s.channel c with loopPause := loopTouches s c } :=
  (updateLoopPauses_channel s c).trans (if_pos out)

theorem updateLoopPauses_channel_of_other (other : (s.channel c).direction ≠ some .out) :
    (updateLoopPauses s).channel c = s.channel c := (updateLoopPauses_channel s c).trans (if_neg other)

theorem updateLoopPauses_port (s : State) (p : Port) : (updateLoopPauses s).port p =
    if ∃ c, (s.channel c).owner = some p ∧ ((updateLoopPauses s).channel c).loopPause ≠ (s.channel c).loopPause
      then (s.port p).raise .looped else s.port p := by
  refine ((updateLoopPauses_set s).port p).trans (if_congr (exists_congr fun c => ?_) rfl rfl)
  rw [updateLoopPauses_channel, and_iff_right (List.mem_finRange c)]

end Pauses

end Sys2Proof.Machine
end

section
/-! SUPPORT. What an outbound frame carries and what its start keeps (R3, R74, R87, R128). They settle O48. -/

namespace Sys2Proof.Machine

open Sys2Proof

/-! ## The units of a frame in which no unit forms (R129) -/

/-- The link is not UP, or a bank mismatch stands: no channel forms a unit (R129). -/
def Unitless (s : State) : Prop := s.link.state ≠ .up ∨ s.exchange.mismatch = true

theorem formUnit_of_unitless {s : State} (idle : Unitless s) (c : ChannelNo) : formUnit s c = ([], s) := by
  refine if_neg fun forms => ?_
  obtain ⟨up, calm, -⟩ := (formsUnit_iff s c).1 forms
  exact idle.elim (· up) fun mismatch => Bool.noConfusion (mismatch.symm.trans calm)

theorem formUnits_cons (c : ChannelNo) (cs : List ChannelNo) (units : FrameUnits) (s : State) :
    formUnits (c :: cs) (units, s) = formUnits cs (units.set c.val (formUnit s c).1, (formUnit s c).2) := rfl

theorem formUnits_of_unitless (l : List ChannelNo) {s : State} (idle : Unitless s) {units : FrameUnits}
    (empty : ∀ c : ChannelNo, units[c.val] = []) (c : ChannelNo) : (formUnits l (units, s)).1[c.val] = [] := by
  induction l generalizing units with
  | nil => exact empty c
  | cons d ds ih =>
    rw [formUnits_cons, formUnit_of_unitless idle d]
    refine ih fun e => ?_
    rw [Vector.getElem_set]
    split
    · rfl
    · exact empty e

/-! ## The bytes of the payload (R3, R74, R128) -/

theorem outboundPayload_get (s : State) (units : FrameUnits) (i : SlotNo) (j : Fin 4) :
    (outboundPayload s units)[4 * i.val + j.val] = outboundByte s units i j := by
  have slot : (4 * i.val + j.val) / 4 = i.val := by omega
  have place : (4 * i.val + j.val) % 4 = j.val := by omega
  simp [outboundPayload, slot, place]

section Byte
variable {s : State} {units : FrameUnits} {i : SlotNo} {j : Fin 4}

theorem outboundByte_looped (looped : s.service.loopSet[i.val] = true) {handed : Payload}
    (last : s.framer.lastHanded = some handed) : outboundByte s units i j =
    if s.link.state = .resync then 0#8 else handed[4 * i.val + j.val] := by
  rw [outboundByte, if_pos looped, last]
  cases s.link.state <;> rfl

theorem outboundByte_looped_none (looped : s.service.loopSet[i.val] = true) (last : s.framer.lastHanded = none) :
    outboundByte s units i j = 0#8 := by
  rw [outboundByte, if_pos looped, last]
  cases s.link.state <;> rfl

theorem outboundByte_free (free : s.service.loopSet[i.val] = false) :
    outboundByte s units i j = suppliedByte s.plan.activeTables.out units i j.val := if_neg (by simp [free])

theorem suppliedByte_unassigned {t : SlotTable} (unassigned : t[i.val] = none) (k : Nat) :
    suppliedByte t units i k = 0#8 := by rw [suppliedByte, unassigned]

theorem slotIndex_eq (t : SlotTable) (c : ChannelNo) (i : SlotNo) : slotIndex t c i =
    ((List.finRange 24).filter fun k => k < i ∧ t[k.val] = some c).length := by
  simp [slotIndex, slotsOf, List.filter_filter, Bool.decide_and, beq_eq_decide]

theorem suppliedByte_assigned {t : SlotTable} {c : ChannelNo} (assigned : t[i.val] = some c) (k : Nat) :
    suppliedByte t units i k = units[c.val].getD
      (k + 4 * ((List.finRange 24).filter fun k => k < i ∧ t[k.val] = some c).length) 0#8 := by
  rw [suppliedByte, assigned, ← slotIndex_eq, Nat.add_comm]

theorem suppliedByte_empty {t : SlotTable} (empty : ∀ c : ChannelNo, units[c.val] = []) (k : Nat) :
    suppliedByte t units i k = 0#8 := by
  cases assigned : t[i.val] with
  | none => exact suppliedByte_unassigned assigned k
  | some c => rw [suppliedByte_assigned assigned, empty c, List.getD_nil]

end Byte

/-! ## The exchange at a position boundary (R87) -/

/-- An AGREE still to be sent enters the slot at this boundary (R46, R47, R87). -/
def AgreeEnters (s : State) : Prop := 3 ≤ s.service.hold ∧
  (∃ a, s.service.answer = some a ∧ a.source = .plan ∧ a.message.code = 0x11#8) ∧
  s.exchange.state = .scheduled ∧ s.exchange.side = some .agreer ∧ s.exchange.target = none

theorem positionBoundary_exchange_fixed {s : State} (enters : AgreeEnters s) :
    (positionBoundary s).exchange = { s.exchange with target := some (s.framer.cycle + 16#8) } := by
  obtain ⟨held, ⟨a, answer, plan, agree⟩, unsent⟩ := enters
  rw [positionBoundary_eq, chooseMessage_answer held answer, moveAnswer_agree plan agree, agreeEntered_eq]
  exact congrArg (fun x => { s.exchange with target := x }) (if_pos unsent)

theorem moveAnswer_exchange_kept {s : State} {a : Answer} (kept : ¬(a.source = .plan ∧ a.message.code = 0x11#8 ∧
    s.exchange.state = .scheduled ∧ s.exchange.side = some .agreer ∧ s.exchange.target = none)) :
    (moveAnswer s a).exchange = s.exchange := by
  cases source : a.source with
  | other => rw [moveAnswer_other source]; rfl
  | badChecksEcho => rw [moveAnswer_echo source, beginBadStart_eq]; rfl
  | plan =>
    by_cases agree : a.message.code = 0x11#8
    · rw [moveAnswer_agree source agree, agreeEntered_eq]
      exact congrArg (fun x => { s.exchange with target := x }) (if_neg fun unsent => kept ⟨source, agree, unsent⟩)
    · rw [moveAnswer_plan source agree]
      rfl

theorem positionBoundary_exchange_kept {s : State} (stays : ¬AgreeEnters s) :
    (positionBoundary s).exchange = s.exchange := by
  rw [positionBoundary_eq]
  change (chooseMessage s).exchange = s.exchange
  by_cases held : 3 ≤ s.service.hold
  · cases answer : s.service.answer with
    | some a =>
      rw [chooseMessage_answer held answer]
      exact moveAnswer_exchange_kept fun ⟨plan, agree, unsent⟩ => stays ⟨held, ⟨a, answer, plan, agree⟩, unsent⟩
    | none =>
      cases origin : s.service.origin with
      | nil => rw [chooseMessage_empty held answer origin]
      | cons e rest =>
        rw [chooseMessage_origin held answer origin, moveOrigin]
        dsimp only
        split <;> rfl
  · rw [chooseMessage_stays (not_le.1 held)]

/-! ## The check of the frame that goes out (R9, R10) -/

theorem beginService_outCheck {f : FrameNo} {s : State} (sent : framesSent s = true) :
    (beginService f s).framer.outCheck = if f = 0 then some checkStart else s.framer.outCheck := by
  by_cases zero : f = 0
  · rw [zero, beginService_zero_of_sent sent]
    rfl
  rw [if_neg zero]
  by_cases six : f = 6
  · rw [six, beginService_six, beginPosition_of_sent sent]
    rfl
  by_cases four : f = 4
  · rw [four, beginService_four]
    rfl
  by_cases five : f = 5
  · rw [five, beginService_five, if_pos sent, statusSent]
    dsimp only
    split_ifs <;> rfl
  by_cases ten : f = 10
  · rw [ten, beginService_ten]
    rfl
  · rw [beginService_of_plain ⟨zero, four, five, six, ten⟩]

end Sys2Proof.Machine
end

section
/-! The start of an outbound frame (R1, R3, R4, R10, R74, R87, R128). It settles O48. -/

namespace Sys2Proof.Machine

open Sys2Proof

/-! ## The frame that begins, from the state that its units leave -/

theorem beginFrame_eq (order : ChannelOrder) (f : FrameNo) (s : State) : beginFrame order f s =
    { (frameUnits order f s).2 with framer := { (frameUnits order f s).2.framer with
      line := (beginFrame order f s).framer.line, outCheck := (beginFrame order f s).framer.outCheck } } := by
  cases sent : framesSent (beginService f s) with
  | true =>
    rw [beginFrame_of_sent sent]
    rfl
  | false => rw [beginFrame_of_unsent sent]

/-- What a frame's start leaves of the items outside the channels, the service channel and the exchange. -/
theorem beginFrame_side (order : ChannelOrder) (f : FrameNo) (s : State) :
    let t := beginFrame order f s
    t.settings = s.settings ∧ t.lastServed = s.lastServed ∧
    t.link = { s.link with leavingCount := t.link.leavingCount } ∧
    (framesSent s = false → t.framer.line = s.framer.line) := by
  intro t
  have units := frameUnits_step order f s
  have settled := frameSettled_step f s
  obtain ⟨frame, framer, link⟩ := serviceBegun f s
  have left : t = _ := beginFrame_eq order f s
  refine ⟨?_, ?_, ?_, fun unsent => ?_⟩
  · rw [left, units.settings, settled.settings, frame]
  · rw [left, units.side, settled.lastServed, frame]
  · rw [beginFrame_link]
    exact link
  · have rests : framesSent (beginService f s) = false := (framesSent_beginService f s).trans unsent
    have line : t.framer.line = (beginService f s).framer.line := by
      rw [show t = _ from beginFrame_of_unsent rests, frameUnits_framer]
    rw [line, framer]

section Start
variable {order : ChannelOrder} {s : State}

/-- Where a frame begins, the step is its start. -/
theorem startFrame_of_begins (begins : s.framer.role = .clock ∨ framesSent (startFrame order s) = true) :
    startFrame order s = beginFrame order (s.framer.outFrame + 1) (frameNumbered order s) := by
  rcases begins with clock | sent
  · rw [startFrame_eq, if_pos (.inl ((frameNumbered_numbers order s).1.trans clock))]
  · exact (startFrame_of_sent sent).2

theorem frameNumbered_of_later (later : s.framer.outFrame + 1 ≠ 0) :
    frameNumbered order s = setOutFrame (s.framer.outFrame + 1) s :=
  congrArg (setOutFrame (s.framer.outFrame + 1)) (frameEntered_of_later later)

/-- What a frame other than frame 0 leaves of the items outside the channels and the service channel. -/
theorem startFrame_side_of_later (later : s.framer.outFrame + 1 ≠ 0) :
    let t := startFrame order s
    t.plan = s.plan ∧ t.settings = s.settings ∧ t.lastServed = s.lastServed ∧
    t.link = { s.link with leavingCount := t.link.leavingCount } ∧
    (framesSent s = false → t.framer.line = s.framer.line) := by
  rw [startFrame_eq, frameNumbered_of_later later]
  split
  · exact ⟨beginFrame_plan .., beginFrame_side ..⟩
  · exact ⟨rfl, rfl, rfl, rfl, fun _ => rfl⟩

/-- An AGREE still to be sent enters position B with the frame (R87). -/
abbrev AgreeEntersWith (f : FrameNo) (s : State) : Prop := f = 6 ∧ framesSent s = true ∧ AgreeEnters s

theorem startFrame_exchange_fixed (fixes : AgreeEntersWith (s.framer.outFrame + 1) s) :
    (startFrame order s).exchange = { s.exchange with target := some (s.framer.cycle + 16#8) } := by
  obtain ⟨six, sent, enters⟩ := fixes
  have entered : frameEntered order s = s := frameEntered_of_later (by rw [six]; decide)
  have boundary := (startFrame_at_boundary (order := order) (entered.symm ▸ sent) (.inr six)).2
  rw [boundary, entered, positionBoundary_exchange_fixed enters]

theorem startFrame_exchange_kept (later : s.framer.outFrame + 1 ≠ 0)
    (stays : ¬AgreeEntersWith (s.framer.outFrame + 1) s) : (startFrame order s).exchange = s.exchange := by
  have entered : frameEntered order s = s := frameEntered_of_later later
  by_cases boundary : framesSent s = true ∧ s.framer.outFrame + 1 = 6
  · obtain ⟨sent, six⟩ := boundary
    rw [(startFrame_at_boundary (order := order) (entered.symm ▸ sent) (.inr six)).2, entered]
    exact positionBoundary_exchange_kept fun enters => stays ⟨six, sent, enters⟩
  · have between : framesSent (frameEntered order s) = false ∨
        (s.framer.outFrame + 1 ≠ 0 ∧ s.framer.outFrame + 1 ≠ 6) := by
      rw [entered]
      cases sent : framesSent s with
      | false => exact .inl rfl
      | true => exact .inr ⟨later, fun six => boundary ⟨sent, six⟩⟩
    rw [(startFrame_between between).2, entered]

/-! ## The frame that goes out -/

/-- The line and the check of a frame that is sent (R1, R9, R10). -/
theorem startFrame_line (sent : framesSent (startFrame order s) = true) :
    let f := s.framer.outFrame + 1
    let n := frameNumbered order s
    let service := (beginService f n).framer.serviceByte f
    (startFrame order s).framer.line = .frame (if f = 0 then 0x2D#8 else 0x1B#8) (framePayload order f n) service ∧
    (startFrame order s).framer.outCheck = (if f = 0 then some 0xFFFF#16 else s.framer.outCheck).map
      (checkFrame f (framePayload order f n) service) := by
  intro f n service
  obtain ⟨numbered, step⟩ := startFrame_of_sent sent
  have goes : framesSent (beginService f n) = true := (framesSent_beginService ..).trans numbered
  have framer := (congrArg State.framer step).trans (beginFrame_framer_of_sent goes)
  have check : (beginService f n).framer.outCheck = if f = 0 then some 0xFFFF#16 else s.framer.outCheck := by
    rw [beginService_outCheck numbered, (frameNumbered_checks numbered).1]
    rfl
  rw [framer, ← markerOf_eq, ← check]
  exact ⟨rfl, rfl⟩

theorem frameUnits_empty {f : FrameNo} {u : State} (idle : Unitless (frameSettled f u)) (c : ChannelNo) :
    (frameUnits order f u).1[c.val] = [] :=
  formUnits_of_unitless _ idle (fun d => Vector.getElem_replicate d.isLt) c

/-- A frame that begins leaves every item but the line and the check as its units do. -/
theorem startFrame_leaves (begins : s.framer.role = .clock ∨ framesSent (startFrame order s) = true) :
    let r := frameUnits order (s.framer.outFrame + 1) (frameNumbered order s)
    let t := startFrame order s
    t = { r.2 with framer := { r.2.framer with line := t.framer.line, outCheck := t.framer.outCheck } } := by
  intro r t
  have step : t = _ := startFrame_of_begins begins
  rw [step]
  exact beginFrame_eq ..

/-- The items of the state after a frame that begins, by its units and the state that they are formed from. -/
theorem startFrame_fields {w u : State} {r : FrameUnits × State} (entered : w = frameEntered order s)
    (settled : u = frameSettled (s.framer.outFrame + 1) (frameNumbered order s))
    (formed : r = frameUnits order (s.framer.outFrame + 1) (frameNumbered order s))
    (begins : s.framer.role = .clock ∨ framesSent (startFrame order s) = true) :
    let t := startFrame order s
    t.channels = r.2.channels ∧ t.areas = r.2.areas ∧ t.pool = r.2.pool ∧ t.cells = r.2.cells ∧
    t.ports = r.2.ports ∧ t.link = u.link ∧ t.plan = u.plan ∧ t.exchange = u.exchange ∧ t.service = u.service ∧
    t.settings = w.settings ∧
    t.framer = { u.framer with line := t.framer.line, outCheck := t.framer.outCheck } := by
  intro t
  have units : TransferStep u r.2 := settled ▸ formed ▸ frameUnits_step ..
  have settings : u.settings = w.settings := by
    rw [settled, (frameSettled_step ..).settings, (serviceBegun ..).frame, entered]
    rfl
  rw [← units.link, ← units.plan, ← units.exchange, ← units.service, ← settings, ← units.settings, ← units.framer,
    formed, show t = _ from startFrame_leaves begins]
  exact ⟨rfl, rfl, rfl, rfl, rfl, rfl, rfl, rfl, rfl, rfl, rfl⟩

/-- Byte `j` of slot `i` of the frame that goes out, by the state after it (R3, R74, R128). -/
theorem startFrame_payload (sent : framesSent (startFrame order s) = true) (i : SlotNo) (j : Fin 4) :
    let f := s.framer.outFrame + 1
    let n := frameNumbered order s
    (framePayload order f n)[4 * i.val + j.val] =
      outboundByte (startFrame order s) (frameUnits order f n).1 i j := by
  intro f n
  rw [startFrame_leaves (.inr sent)]
  exact outboundPayload_get ..

theorem startFrame_unitless (begins : s.framer.role = .clock ∨ framesSent (startFrame order s) = true)
    (idle : Unitless (startFrame order s)) :
    Unitless (frameSettled (s.framer.outFrame + 1) (frameNumbered order s)) := by
  have units := frameUnits_step order (s.framer.outFrame + 1) (frameNumbered order s)
  rw [startFrame_leaves begins] at idle
  unfold Unitless at idle ⊢
  rw [← units.link, ← units.exchange]
  exact idle

theorem startFrame_cycle : (startFrame order s).framer.cycle =
    if s.framer.outFrame + 1 = 0 ∧ s.framer.cycleOpen = false then s.framer.cycle + 1#8 else s.framer.cycle :=
  (congrArg (fun n => n.2.2.2) (startFrame_numbers order s)).trans (frameNumbered_numbers order s).2.2.2

/-- Frame 0 ends the cycle start that its steps have opened (R4). -/
theorem startFrame_cycleOpen (zero : s.framer.outFrame + 1 = 0) : (startFrame order s).framer.cycleOpen = false := by
  have shut : (frameNumbered order s).framer.cycleOpen = false := if_pos (congrArg Fin.val zero)
  rw [startFrame_eq]
  split
  · rw [beginFrame_eq, frameUnits_framer, (serviceBegun ..).framer]
    exact shut
  · exact shut

/-- The channels' part of a frame that begins: what the pauses and the service byte's part leave (R128, R131). -/
theorem frameSettled_side {f : FrameNo} {v w u : State} (numbered : v = setOutFrame f w)
    (settled : u = frameSettled f v) : u.areas = w.areas ∧ u.pool = w.pool ∧ u.cells = w.cells ∧
    (∀ c, ((w.channel c).direction = some .out →
        u.channel c = { w.channel c with loopPause := loopTouches u c }) ∧
      ((w.channel c).direction ≠ some .out → u.channel c = w.channel c)) ∧
    ∀ p, u.port p = if ∃ c, (w.channel c).owner = some p ∧ (u.channel c).loopPause ≠ (w.channel c).loopPause
      then (w.port p).raise .looped else w.port p := by
  have begun : beginService f v = { w with
      framer := (beginService f v).framer, link := (beginService f v).link
      service := (beginService f v).service, exchange := (beginService f v).exchange } := by
    refine (serviceBegun f v).frame.trans ?_
    rw [numbered]
    rfl
  have channel (c : ChannelNo) : (beginService f v).channel c = w.channel c := (congrArg (State.channel · c) begun :)
  have port (p : Port) : (beginService f v).port p = w.port p := (congrArg (State.port · p) begun :)
  have step := frameSettled_step f v
  rw [← settled] at step
  have pauses : u = updateLoopPauses (beginService f v) := settled
  refine ⟨?_, ?_, ?_, fun c => ⟨fun out => ?_, fun other => ?_⟩, fun p => ?_⟩
  · rw [step.areas, begun]
  · rw [step.pool, begun]
  · rw [pauses, (updateLoopPauses_set (beginService f v)).cells, begun]
  · rw [step.loopTouches, ← channel c, pauses]
    exact updateLoopPauses_channel_of_out (by rw [channel c, out])
  · rw [← channel c, pauses]
    exact updateLoopPauses_channel_of_other (by rwa [channel c])
  · have set := updateLoopPauses_port (beginService f v) p
    rw [← pauses] at set
    simp only [channel, port] at set
    exact set

end Start

/-- Settles O48: the due acts one after another, then the frame by its service byte's part, its pauses, its units
and its payload. -/
theorem frameStartSends : Obligations.FrameStartSends := by
  intro order s f may opened waited left begun timed switched adopted w u r looped
  refine ⟨⟨openCycle_eq s, ?due⟩, ?rests, ?starts, ?units⟩
  case due =>
    have switches (x : State) : whenDue swapDue (planSwapOp order) x = switched x := by
      cases target : x.exchange.target with
      | none => simp only [switched, target, whenDue_swap_of_none target]
      | some c =>
        simp only [switched, target, whenDue_swap_of_some target]
        rfl
    unfold runDue
    rw [whenDue_readyWait, whenDue_leaving, whenDue_badStart, whenDue_timeout, switches, whenDue_adoption]
    rfl
  case rests =>
    intro stays
    exact exec_outboundFrameStart_of_not (mt (frameMayStart_iff s).1 stays)
  case units => exact fun c cs units v => ⟨rfl, rfl⟩
  case starts =>
    intro goes
    refine ⟨startFrame order s, exec_outboundFrameStart_of_may ((frameMayStart_iff s).2 goes),
      startFrame_outFrame order s, startFrame_cycle, startFrame_cycleOpen, ?line, ?leaves, ?later⟩
    case line =>
      intro sent
      obtain ⟨line, check⟩ := startFrame_line sent
      refine ⟨_, _, line, check, fun i j => ⟨fun loops => ?_, fun free unit => ?_, fun free c assigned => ?_⟩⟩
      · rw [startFrame_payload sent]
        cases last : (startFrame order s).framer.lastHanded with
        | none => exact outboundByte_looped_none loops last
        | some handed => exact outboundByte_looped loops last
      · rw [startFrame_payload sent, outboundByte_free free]
        rcases unit with unassigned | idle
        · exact suppliedByte_unassigned unassigned _
        · exact suppliedByte_empty (frameUnits_empty (startFrame_unitless (.inr sent) idle)) _
      · rw [startFrame_payload sent, outboundByte_free free]
        exact suppliedByte_assigned assigned _
    case leaves =>
      intro begins
      obtain ⟨areas, pool, cells, channels, ports⟩ :=
        frameSettled_side (f := f) (w := w) (u := u) (v := frameNumbered order s) rfl rfl
      obtain ⟨channelsLeft, areasLeft, poolLeft, cellsLeft, portsLeft, link, plan, exchange, service, settings,
        framer⟩ := startFrame_fields (w := w) (u := u) (r := r) rfl rfl rfl begins
      have loops (c : ChannelNo) : loopTouches u c = decide (looped c) := by
        simp only [looped, ← loopTouches_iff, Bool.decide_eq_true]
      refine ⟨channelsLeft, areasLeft, poolLeft, cellsLeft, portsLeft, link, plan, exchange, service, settings,
        framer, areas, pool, cells, fun c => ⟨fun out => ?_, (channels c).2⟩, ports⟩
      rw [← loops c]
      exact (channels c).1 out
    case later =>
      intro later
      obtain ⟨plan, settings, served, link, line⟩ := startFrame_side_of_later (order := order) later
      exact ⟨plan, ⟨startFrame_exchange_kept later, startFrame_exchange_fixed⟩, settings, served, link, line⟩

end Sys2Proof.Machine
end
